-- ==== Sys2Proof/Word.lean ====
section
/-! DEFINITION. The bit-vector types of the block: bus words, bytes, window offsets, and the fields of a
command word (10_state.md, 20_memory.md R80, R81, 30_encoding.md R111 to R113). -/

namespace Sys2Proof

/-- A 32-bit bus word, and so a command word (30_encoding.md R110). -/
abbrev Word := BitVec 32

/-- A byte of operand RAM (10_state.md R36). -/
abbrev Byte := BitVec 8

/-- A byte offset in the 1024-byte window (20_memory.md R80). -/
abbrev Offset := BitVec 10

/-- The content of a field register, 255 bits (10_state.md R31). -/
abbrev FieldVal := BitVec 255

/-- The content of the scalar register SK, 256 bits (10_state.md R35). -/
abbrev Scalar := BitVec 256

/-- An operand field of kind F: the index of a field register (30_encoding.md R113). -/
abbrev FReg := BitVec 4

/-- An operand field of kind P as it stands in the word, bit 3 included (30_encoding.md R113);
an instruction is well formed only if that bit is 0. -/
abbrev PReg := BitVec 4

/-- An operand field of kind S: the index of an operand-RAM slot (30_encoding.md R113). -/
abbrev Slot := BitVec 4

/-- FLDI's immediate (30_encoding.md R112, R114). -/
abbrev Imm22 := BitVec 22

end Sys2Proof
end

