-- ==== Sys2Proof/Syntax.lean ====
section
/-! DEFINITION. The 20 commands of XSMC command set version 1 (00_scope.md R2, 30_encoding.md R115), one
constructor per row of the opcode map, operands in field order d, a, b, c. -/

namespace Sys2Proof

/-- A decoded command (30_encoding.md R115, R118). The pseudo-instructions of R126 are other spellings of
these (Sys2Proof/Machine/Assembler.lean). -/
inductive Instr where
  | fadd (d a b : FReg)
  | fsub (d a b : FReg)
  | fmul (d a b : FReg)
  | fpow (d a b : FReg)
  | finv (d a : FReg)
  | fmov (d a : FReg)
  | fldi (d : FReg) (imm : Imm22)
  | pdbl (d a : PReg)
  | padd (d a b c : PReg)
  | ldk (a : Slot)
  | clampk (a : Slot)
  | stk (d : Slot)
  | ladder (d a : PReg)
  | ldf (d : FReg) (a : Slot)
  | stf (d : Slot) (a : FReg)
  | pproj (d : PReg) (a : FReg)
  | pinf (d : PReg)
  | pcomp (d : FReg) (a : PReg)
  | x25519 (d a b : Slot)
  | x25519b (d a : Slot)
  deriving DecidableEq, Repr

end Sys2Proof
end

