-- ==== Sys2Proof/WellFormed.lean ====
section
/-! DEFINITION. Well-formedness of a command: every operand field of kind P has bit 3 = 0 (30_encoding.md
R113, R117). The fields of kinds F and S and the immediate take every value of their width, so they carry
no further check. -/

namespace Sys2Proof

/-- A point-register field names one of P0 to P7 (30_encoding.md R113). -/
def PReg.ok (r : PReg) : Bool := !r.getLsbD 3

/-- The command can be written as a legal word (30_encoding.md R117). -/
def Instr.wellFormed : Instr → Bool
  | .fadd _ _ _ => true
  | .fsub _ _ _ => true
  | .fmul _ _ _ => true
  | .fpow _ _ _ => true
  | .finv _ _ => true
  | .fmov _ _ => true
  | .fldi _ _ => true
  | .pdbl d a => PReg.ok d && PReg.ok a
  | .padd d a b c => PReg.ok d && PReg.ok a && PReg.ok b && PReg.ok c
  | .ldk _ => true
  | .clampk _ => true
  | .stk _ => true
  | .ladder d a => PReg.ok d && PReg.ok a
  | .ldf _ _ => true
  | .stf _ _ => true
  | .pproj d _ => PReg.ok d
  | .pinf d => PReg.ok d
  | .pcomp _ a => PReg.ok a
  | .x25519 _ _ _ => true
  | .x25519b _ _ => true

end Sys2Proof
end

