-- ==== Sys2Proof/Decode.lean ====
section
/-! DEFINITION. The command encoding (30_encoding.md): the fields of a word, the decoder with the reasons for
which it rejects a word, the encoder, and the opcode map with its match and mask words. -/

namespace Sys2Proof

/-- Why a word is illegal (30_encoding.md R117). All four raise the same error E_ILLEGAL
(60_exceptions.md R271). -/
inductive Illegal where
  | reservedOpcode
  | reservedBits
  | unusedField
  | pointIndex
  deriving DecidableEq, Repr

/-- op = w[31:26] (30_encoding.md R111). -/
def opField (w : Word) : BitVec 6 := w.extractLsb' 26 6

/-- d = w[25:22] (30_encoding.md R111). -/
def dField (w : Word) : BitVec 4 := w.extractLsb' 22 4

/-- a = w[21:18] (30_encoding.md R111). -/
def aField (w : Word) : BitVec 4 := w.extractLsb' 18 4

/-- b = w[17:14] (30_encoding.md R111). -/
def bField (w : Word) : BitVec 4 := w.extractLsb' 14 4

/-- c = w[13:10] (30_encoding.md R111). -/
def cField (w : Word) : BitVec 4 := w.extractLsb' 10 4

/-- rsv = w[9:0] (30_encoding.md R111). -/
def rsvField (w : Word) : BitVec 10 := w.extractLsb' 0 10

/-- imm22 = w[21:0] (30_encoding.md R112). -/
def immField (w : Word) : Imm22 := w.extractLsb' 0 22

/-- The checks of a format-R word: reserved bits 0, unused fields 0, bit 3 of every point field 0
(30_encoding.md R117). -/
def checkR (w : Word) (unused points : List (BitVec 4)) (i : Instr) : Except Illegal Instr :=
  if rsvField w ≠ 0 then .error .reservedBits
  else if unused.any (· != 0) then .error .unusedField
  else if !points.all PReg.ok then .error .pointIndex
  else .ok i

/-- The decoder, total on all 2^32 words (30_encoding.md R115, R118). -/
def decode (w : Word) : Except Illegal Instr :=
  let d := dField w
  let a := aField w
  let b := bField w
  let c := cField w
  match opField w with
  | 0x01#6 => checkR w [c] [] (.fadd d a b)
  | 0x02#6 => checkR w [c] [] (.fsub d a b)
  | 0x03#6 => checkR w [c] [] (.fmul d a b)
  | 0x04#6 => checkR w [c] [] (.fpow d a b)
  | 0x05#6 => checkR w [b, c] [] (.finv d a)
  | 0x06#6 => checkR w [b, c] [] (.fmov d a)
  | 0x07#6 => .ok (.fldi d (immField w))
  | 0x10#6 => checkR w [b, c] [d, a] (.pdbl d a)
  | 0x11#6 => checkR w [] [d, a, b, c] (.padd d a b c)
  | 0x18#6 => checkR w [d, b, c] [] (.ldk a)
  | 0x19#6 => checkR w [d, b, c] [] (.clampk a)
  | 0x1A#6 => checkR w [a, b, c] [] (.stk d)
  | 0x1B#6 => checkR w [b, c] [d, a] (.ladder d a)
  | 0x20#6 => checkR w [b, c] [] (.ldf d a)
  | 0x21#6 => checkR w [b, c] [] (.stf d a)
  | 0x22#6 => checkR w [b, c] [d] (.pproj d a)
  | 0x23#6 => checkR w [a, b, c] [d] (.pinf d)
  | 0x24#6 => checkR w [b, c] [a] (.pcomp d a)
  | 0x30#6 => checkR w [c] [] (.x25519 d a b)
  | 0x31#6 => checkR w [b, c] [] (.x25519b d a)
  | _ => .error .reservedOpcode

/-- A format-R word from its fields (30_encoding.md R111). -/
def packR (op : BitVec 6) (d a b c : BitVec 4) (rsv : BitVec 10) : Word :=
  op ++ d ++ a ++ b ++ c ++ rsv

/-- A format-I word from its fields (30_encoding.md R112). -/
def packI (op : BitVec 6) (d : BitVec 4) (imm : Imm22) : Word :=
  op ++ d ++ imm

/-- The opcode number of a command (30_encoding.md R115). -/
def Instr.opcode : Instr → BitVec 6
  | .fadd _ _ _ => 0x01#6
  | .fsub _ _ _ => 0x02#6
  | .fmul _ _ _ => 0x03#6
  | .fpow _ _ _ => 0x04#6
  | .finv _ _ => 0x05#6
  | .fmov _ _ => 0x06#6
  | .fldi _ _ => 0x07#6
  | .pdbl _ _ => 0x10#6
  | .padd _ _ _ _ => 0x11#6
  | .ldk _ => 0x18#6
  | .clampk _ => 0x19#6
  | .stk _ => 0x1A#6
  | .ladder _ _ => 0x1B#6
  | .ldf _ _ => 0x20#6
  | .stf _ _ => 0x21#6
  | .pproj _ _ => 0x22#6
  | .pinf _ => 0x23#6
  | .pcomp _ _ => 0x24#6
  | .x25519 _ _ _ => 0x30#6
  | .x25519b _ _ => 0x31#6

/-- The encoder: unused fields and reserved bits are 0 (30_encoding.md R111, R112, R115). -/
def encode : Instr → Word
  | .fadd d a b => packR 0x01 d a b 0 0
  | .fsub d a b => packR 0x02 d a b 0 0
  | .fmul d a b => packR 0x03 d a b 0 0
  | .fpow d a b => packR 0x04 d a b 0 0
  | .finv d a => packR 0x05 d a 0 0 0
  | .fmov d a => packR 0x06 d a 0 0 0
  | .fldi d imm => packI 0x07 d imm
  | .pdbl d a => packR 0x10 d a 0 0 0
  | .padd d a b c => packR 0x11 d a b c 0
  | .ldk a => packR 0x18 0 a 0 0 0
  | .clampk a => packR 0x19 0 a 0 0 0
  | .stk d => packR 0x1A d 0 0 0 0
  | .ladder d a => packR 0x1B d a 0 0 0
  | .ldf d a => packR 0x20 d a 0 0 0
  | .stf d a => packR 0x21 d a 0 0 0
  | .pproj d a => packR 0x22 d a 0 0 0
  | .pinf d => packR 0x23 d 0 0 0 0
  | .pcomp d a => packR 0x24 d a 0 0 0
  | .x25519 d a b => packR 0x30 d a b 0 0
  | .x25519b d a => packR 0x31 d a 0 0 0

/-- A row of the opcode map: the words that encode its command are those with `w &&& mask = pattern`
(30_encoding.md R115). -/
structure OpcodeRow where
  op : BitVec 6
  pattern : Word
  mask : Word
  deriving DecidableEq, Repr

/-- The match and mask columns of the opcode map (30_encoding.md R115). -/
def opcodeMap : List OpcodeRow :=
  [⟨0x01, 0x04000000, 0xFC003FFF⟩,   -- FADD
   ⟨0x02, 0x08000000, 0xFC003FFF⟩,   -- FSUB
   ⟨0x03, 0x0C000000, 0xFC003FFF⟩,   -- FMUL
   ⟨0x04, 0x10000000, 0xFC003FFF⟩,   -- FPOW
   ⟨0x05, 0x14000000, 0xFC03FFFF⟩,   -- FINV
   ⟨0x06, 0x18000000, 0xFC03FFFF⟩,   -- FMOV
   ⟨0x07, 0x1C000000, 0xFC000000⟩,   -- FLDI
   ⟨0x10, 0x40000000, 0xFE23FFFF⟩,   -- PDBL
   ⟨0x11, 0x44000000, 0xFE2223FF⟩,   -- PADD
   ⟨0x18, 0x60000000, 0xFFC3FFFF⟩,   -- LDK
   ⟨0x19, 0x64000000, 0xFFC3FFFF⟩,   -- CLAMPK
   ⟨0x1A, 0x68000000, 0xFC3FFFFF⟩,   -- STK
   ⟨0x1B, 0x6C000000, 0xFE23FFFF⟩,   -- LADDER
   ⟨0x20, 0x80000000, 0xFC03FFFF⟩,   -- LDF
   ⟨0x21, 0x84000000, 0xFC03FFFF⟩,   -- STF
   ⟨0x22, 0x88000000, 0xFE03FFFF⟩,   -- PPROJ
   ⟨0x23, 0x8C000000, 0xFE3FFFFF⟩,   -- PINF
   ⟨0x24, 0x90000000, 0xFC23FFFF⟩,   -- PCOMP
   ⟨0x30, 0xC0000000, 0xFC003FFF⟩,   -- X25519
   ⟨0x31, 0xC4000000, 0xFC03FFFF⟩]   -- X25519B

/-- The row matches the word (30_encoding.md R115). -/
def OpcodeRow.matchesWord (r : OpcodeRow) (w : Word) : Bool := w &&& r.mask == r.pattern

/-- The command word that the `nbits` low bits of `w` make, numbered as the opcode table numbers them; a
command is one 32-bit word, bit 0 the least significant (30_encoding.md R110, R111). -/
def tableWord (nbits w : Nat) : Word := BitVec.ofNat 32 (w % 2 ^ nbits)

/-- What the decoder reads from a table row's bits; more than 32 bits are no command (30_encoding.md R110). -/
def decodeTableWord (nbits w : Nat) : Option Instr :=
  if w % 2 ^ nbits < 2 ^ 32 then
    match decode (tableWord nbits w) with
    | .ok i => some i
    | .error _ => none
  else none

end Sys2Proof
end

