-- ==== Sys2Proof/Config.lean ====
section
/-! DEFINITION. What an implementation fixes and the free values: the OPEN parameters BASE, LAT and
INV_METHOD (00_scope.md R11) and the value of an operand-RAM read while the block is busy (20_memory.md
R87). Each is a constant without a body, so no proof can rest on its value. -/

namespace Sys2Proof

/-- Which window of 1024 bytes the platform gives the block (20_memory.md R80, 00_scope.md R11). -/
opaque Config.window : Nat

/-- BASE, a multiple of 1024 (00_scope.md R11, 20_memory.md R80; log 4). -/
def Config.base : Nat := 1024 * Config.window

/-- The clock cycles by which `Config.latency` exceeds one; `none` is an illegal word
(70_reset_and_hazards.md R330). -/
opaque Config.extraCycles : Option (BitVec 6) → Nat

/-- LAT(op), a positive number of cycles that depends on the opcode only, or LAT(ILLEGAL) for `none`. The
model has no clock, and no rule of the model depends on a value of it (70_reset_and_hazards.md R330; log 5). -/
def Config.latency (op : Option (BitVec 6)) : Nat := Config.extraCycles op + 1

/-- The two inversion methods the spec allows (41_field.md R145). -/
inductive Config.InvMethod where
  | fermat
  | euclid
  deriving DecidableEq, Repr, Inhabited

/-- INV_METHOD (00_scope.md R11; log 8). -/
opaque Config.invMethod : Config.InvMethod

/-- FREE VALUE: what the n-th host read of operand RAM while the block is busy returns (20_memory.md R87;
log 3). -/
opaque Config.busyRead : Nat → Word

end Sys2Proof
end

