-- ==== Sys2Proof/Machine/Arith.lean ====
section
/-! DEFINITION. The mathematics of the commands on non-negative integers (00_scope.md R7 to R17): the
hard-wired constants, GF(p), projective points, the ladder, byte strings and clamping. -/

namespace Sys2Proof.Machine

/-! ### Hard-wired constants -/

/-- p = 2^255 - 19 (00_scope.md R7). -/
def prime : Nat := 0x7FFFFFFFFFFFFFFFFFFFFFFFFFFFFFFFFFFFFFFFFFFFFFFFFFFFFFFFFFFFFFED

/-- A, the curve coefficient (00_scope.md R8). -/
def curveA : Nat := 486662

/-- B, the curve coefficient (00_scope.md R8). -/
def curveB : Nat := 1

/-- Gx, the base point's x-coordinate (00_scope.md R8). -/
def baseX : Nat := 9

/-- l, the subgroup order (00_scope.md R8). -/
def subgroupOrder : Nat := 2 ^ 252 + 27742317777372353535851937790883648493

/-- A + 2, the doubling constant (00_scope.md R9). -/
def curveAPlus2 : Nat := curveA + 2

/-! ### GF(p) -/

/-- `fadd` (00_scope.md R17). -/
def fadd (a b : Nat) : Nat := (a + b) % prime

/-- `fsub`: the least non-negative residue of the difference (00_scope.md R12, R17). -/
def fsub (a b : Nat) : Nat := (((a : Int) - (b : Int)) % (prime : Int)).toNat

/-- `fmul`: the full product, reduced (00_scope.md R17). -/
def fmul (a b : Nat) : Nat := a * b % prime

/-- `fsq` (00_scope.md R17). -/
def fsq (a : Nat) : Nat := fmul a a

/-- Square-and-multiply over bits n-1 to 0 of the exponent, from the value `acc` of the bits above; the same
operations for either bit (41_field.md R151). -/
def fpowBits (a e : Nat) : Nat → Nat → Nat
  | 0, acc => acc
  | n + 1, acc => fpowBits a e n (if e.testBit n then fmul (fsq acc) a else fsq acc)

/-- `fpow` by square-and-multiply over the 255 exponent bits (00_scope.md R17, 41_field.md R143, R151). -/
def fpow (a e : Nat) : Nat := fpowBits a e 255 1

/-- Inversion by Fermat exponentiation (00_scope.md R17, 41_field.md R144). -/
def finv (a : Nat) : Nat := fpow a (prime - 2)

/-- Inversion by the extended Euclidean algorithm, which the spec allows in its place (41_field.md R145). -/
def finvEuclid (a : Nat) : Nat := (Nat.gcdA a prime % (prime : Int)).toNat

/-- The inverse by either method (41_field.md R145; log 8). -/
def finvBy : Config.InvMethod → Nat → Nat
  | .fermat, a => finv a
  | .euclid, a => finvEuclid a

/-! ### Projective points -/

/-- A projective point, a pair of field elements (10_state.md R33). -/
structure Point where
  x : Nat
  z : Nat
  deriving DecidableEq, Repr

/-- The neutral element (1, 0) (44_codec.md R229). -/
def neutral : Point := ⟨1, 0⟩

/-- `toProjective` of a field element (44_codec.md R229). -/
def toProjective (x : Nat) : Point := ⟨x, 1⟩

/-- Doubling (42_point.md R171, 90_conflicts.md C3). -/
def dbl (q : Point) : Point :=
  { x := fmul (fsq (fadd q.x q.z)) (fsq (fsub q.x q.z))
    z := fmul (fmul 4 (fmul q.x q.z)) (fadd (fsq (fsub q.x q.z)) (fmul curveAPlus2 (fmul q.x q.z))) }

/-- Differential addition of `q1` and `q2` with the difference `diff` (42_point.md R174). -/
def dadd (q1 q2 diff : Point) : Point :=
  let s := fmul (fsub q2.x q2.z) (fadd q1.x q1.z)
  let t := fmul (fadd q2.x q2.z) (fsub q1.x q1.z)
  { x := fmul diff.z (fsq (fadd s t))
    z := fmul diff.x (fsq (fsub s t)) }

/-! ### The ladder -/

/-- The two accumulators Q and R (43_ladder.md R196). -/
structure Accumulators where
  q : Point
  r : Point
  deriving DecidableEq, Repr

/-- One iteration for the bit `b` and the difference point `diff` (43_ladder.md R196). -/
def ladderStep (b : Bool) (diff : Point) (qr : Accumulators) : Accumulators :=
  if b then ⟨dadd qr.q qr.r diff, dbl qr.r⟩ else ⟨dbl qr.q, dadd qr.q qr.r diff⟩

/-- The iterations for bits n-1 to 0 of the scalar, most significant first (43_ladder.md R196). -/
def ladderBits (s : Nat) (diff : Point) : Nat → Accumulators → Accumulators
  | 0, qr => qr
  | n + 1, qr => ladderBits s diff n (ladderStep (s.testBit n) diff qr)

/-- `scalarMul`: exactly 256 iterations from (neutral, P) (00_scope.md R10, 43_ladder.md R196). -/
def scalarMul (s : Nat) (pt : Point) : Point := (ladderBits s pt 256 ⟨neutral, pt⟩).q

/-- `cswap` (43_ladder.md R199). -/
def cswap (b : Bool) (qr : Accumulators) : Accumulators := if b then ⟨qr.r, qr.q⟩ else qr

/-- One iteration in the constant-time realisation (43_ladder.md R199). -/
def cswapStep (b : Bool) (diff : Point) (qr : Accumulators) : Accumulators :=
  let sw := cswap b qr
  cswap b ⟨dbl sw.q, dadd sw.q sw.r diff⟩

/-- The constant-time loop (43_ladder.md R199). -/
def cswapBits (s : Nat) (diff : Point) : Nat → Accumulators → Accumulators
  | 0, qr => qr
  | n + 1, qr => cswapBits s diff n (cswapStep (s.testBit n) diff qr)

/-- `toCompressed`: none for the point at infinity (44_codec.md R227). -/
def toCompressed (q : Point) : Option Nat := if q.z = 0 then none else some (fmul q.x (finv q.z))

/-- NONE is represented by the value 0 (44_codec.md R227). -/
def compressedValue (q : Point) : Nat := (toCompressed q).getD 0

/-! ### Byte strings -/

/-- `LE`: the integer of a little-endian byte string (00_scope.md R14). -/
def leToNat : List Byte → Nat
  | [] => 0
  | b :: bs => b.toNat + 256 * leToNat bs

/-- The little-endian string of `n` bytes of an integer below 256^n (00_scope.md R14). -/
def natToLe : Nat → Nat → List Byte
  | 0, _ => []
  | n + 1, v => BitVec.ofNat 8 v :: natToLe n (v / 256)

/-- `LE32` (00_scope.md R14). -/
def le32 (v : Nat) : List Byte := natToLe 32 v

/-- `bytesToField`: all 256 bits take part, reduced at once (44_codec.md R220, R228). -/
def bytesToField (b : List Byte) : Nat := leToNat b % prime

/-- `fieldToBytes` (44_codec.md R221). -/
def fieldToBytes (x : Nat) : List Byte := le32 x

/-- The clamped bytes (43_ladder.md R194, 90_conflicts.md C1). -/
def clampBytes (b : List Byte) : List Byte :=
  let c := b.modify 0 (· &&& 0xF8#8)
  let c := c.modify 31 (· &&& 0x7F#8)
  c.modify 31 (· ||| 0x40#8)

/-- `clamp` (43_ladder.md R194). -/
def clamp (b : List Byte) : Nat := leToNat (clampBytes b)

end Sys2Proof.Machine
end

