-- ==== Sys2Proof/Machine/State.lean ====
section
/-! DEFINITION. The state of the block (10_state.md R30), the records the model keeps for a run
(70_reset_and_hazards.md R335, R336), the reasons a step can stop, and the state after reset (10_state.md
R60). Everything is plain data. -/

namespace Sys2Proof.Machine

/-- Operand RAM as its bytes that are not 0, by address, strictly rising (10_state.md R36, R60). -/
abbrev Memory := List Host.Cell

/-- The width of a host access (20_memory.md R81). -/
inductive Width where
  | byte
  | half
  | word
  deriving DecidableEq, Repr

/-- What a host access does (00_scope.md R18). -/
inductive AccessKind where
  | read
  | write (v : Word)
  deriving DecidableEq, Repr

/-- One access as it appears on the host bus. The contract admits 32-bit accesses that are no part of a burst
(20_memory.md R81); `write v` of a narrower access carries its data in the low bits. -/
structure Access where
  kind : AccessKind
  width : Width := .word
  burst : Bool := false
  deriving DecidableEq, Repr

/-- One operation of a host program (00_scope.md R18, 70_reset_and_hazards.md R335). -/
inductive HostOp where
  /-- An access at a window offset: `R32`, `W32`, or one outside the contract. -/
  | access (off : Offset) (acc : Access)
  /-- The same, given by its address on the host bus (20_memory.md R80). -/
  | bus (addr : Nat) (acc : Access)
  /-- `WAIT_IDLE`: read STATUS until BUSY reads 0. -/
  | waitIdle
  deriving DecidableEq, Repr

/-- The three kinds of step of the total order (20_memory.md R94). -/
inductive Agent where
  | host
  | engine
  | reset
  deriving DecidableEq, Repr

/-- What belongs to the run and not to the block: the host's side of a launch, which agent moves when, and the
model's records (70_reset_and_hazards.md R335, R336). No reset of the block changes it, but for the entry of the
schedule that a step consumes. -/
structure Run where
  /-- The host operations still to be performed, in program order (R335). -/
  program : List HostOp
  /-- Which agent moves next, then next after that; past its end the engine moves when a command is pending,
  and else the host (log 1). -/
  schedule : List Agent
  /-- The values the host's reads returned, oldest first (R335). -/
  reads : List Word
  /-- How many free draws have been made (20_memory.md R87; log 3). -/
  draws : Nat
  /-- The host performed an access outside the contract (R336). -/
  refused : Bool
  /-- A completion step raised an error (R336). -/
  errSeen : Bool
  /-- STATUS.DROP was set (R336). -/
  dropSeen : Bool
  deriving DecidableEq, Repr

/-- The architectural state (10_state.md R30) and the run it belongs to. -/
structure State where
  /-- F0 to F15 (R31). -/
  f : Vector FieldVal 16
  /-- SK (R35). -/
  sk : Scalar
  /-- MEM, the operand RAM (R36). -/
  mem : Memory
  /-- CTRL.IE_DONE (R43). -/
  ieDone : Bool
  /-- CTRL.IE_ERR (R43). -/
  ieErr : Bool
  /-- STATUS.DONE (R47). -/
  done : Bool
  /-- STATUS.ERR (R48). -/
  err : Bool
  /-- STATUS.DROP (R49). -/
  drop : Bool
  /-- STATUS.INF (R37). -/
  inf : Bool
  /-- STATUS.ZERO (R38). -/
  zero : Bool
  /-- STATUS.ERRCODE (R48). -/
  errcode : BitVec 4
  /-- ERRCMD (R51). -/
  errcmd : Word
  /-- PENDING, the accepted command word that is not yet completed (R54). -/
  pending : Option Word
  /-- The run the state belongs to. -/
  run : Run
  deriving DecidableEq, Repr

/-- The reasons the machine can stop by a fault: none. Every error of the block is recorded in STATUS and the
block goes on (60_exceptions.md R275, R270). -/
inductive Fault where
  deriving DecidableEq, Repr

/-- The reasons the model gives a step no meaning. -/
inductive Refusal where
  /-- Raised by an arm of `exec` that has no meaning yet; safe. No arm raises it. -/
  | notModelled (mnemonic : String)
  /-- Raised by `step` once the host has performed an access outside the contract (another width, a misaligned
  offset, a burst), of which the spec does not say what the hardware does (20_memory.md R81); safe. -/
  | nonContractAccess
  deriving DecidableEq, Repr

/-- A run in which nothing has been launched yet (log 1, log 2, log 3). -/
def Run.launch : Run :=
  { program := [], schedule := [], reads := [], draws := 0,
    refused := false, errSeen := false, dropSeen := false }

/-- The state right after a reset (10_state.md R60, 70_reset_and_hazards.md R310). -/
def State.reset : State :=
  { f := Vector.replicate 16 0, sk := 0, mem := [],
    ieDone := false, ieErr := false,
    done := false, err := false, drop := false, inf := false, zero := false,
    errcode := 0, errcmd := 0, pending := none, run := Run.launch }

end Sys2Proof.Machine
end

