-- ==== Sys2Proof/Machine/Ops.lean ====
section
/-! DEFINITION. The named operations over operand RAM, registers, slots and the run's records, and the ways a
command ends: completion and the error entry (10_state.md R53, 60_exceptions.md R275). -/

namespace Sys2Proof.Machine

/-! ### Operand RAM -/

/-- What a byte of operand RAM that nothing has written reads as: its reset content 0x00 (10_state.md R60). -/
def Memory.unlisted : Byte := 0

/-- The number of bytes of operand RAM (10_state.md R36). -/
def Memory.size : Nat := 512

/-- MEM[a] (10_state.md R36). -/
def Memory.read : Memory → Nat → Byte
  | [], _ => Memory.unlisted
  | (a', b') :: m, a => if a = a' then b' else Memory.read m a

/-- MEM[a] <- b, in the canonical form: a byte equal to what an unlisted address reads as is not listed. -/
def Memory.write : Memory → Nat → Byte → Memory
  | [], a, b => if b = Memory.unlisted then [] else [(a, b)]
  | (a', b') :: m, a, b =>
    if a < a' then (if b = Memory.unlisted then (a', b') :: m else (a, b) :: (a', b') :: m)
    else if a = a' then (if b = Memory.unlisted then m else (a, b) :: m)
    else (a', b') :: Memory.write m a b

/-- `MemRead(a, n)`: n bytes in address order (00_scope.md R15). -/
def Memory.readBytes (m : Memory) : Nat → Nat → List Byte
  | _, 0 => []
  | a, n + 1 => Memory.read m a :: Memory.readBytes m (a + 1) n

/-- `MemWrite(a, n, b)`: the bytes of `b` in address order (00_scope.md R15). -/
def Memory.writeBytes : Memory → Nat → List Byte → Memory
  | m, _, [] => m
  | m, a, b :: bs => Memory.writeBytes (Memory.write m a b) (a + 1) bs

/-- From address `lo` on: listed addresses rise strictly, lie in operand RAM, and hold no byte that an
unlisted address reads as. -/
def Memory.wfFrom : Nat → Memory → Bool
  | _, [] => true
  | lo, (a, b) :: m => decide (lo ≤ a) && decide (a < Memory.size) && (b != Memory.unlisted) && Memory.wfFrom (a + 1) m

/-- The canonical form of operand RAM. -/
def Memory.wf (m : Memory) : Bool := Memory.wfFrom 0 m

/-- The 32-bit word of the bytes at `a` to `a + 3`, packed little-endian (20_memory.md R84). -/
def Memory.readWord (m : Memory) (a : Nat) : Word :=
  Memory.read m (a + 3) ++ Memory.read m (a + 2) ++ Memory.read m (a + 1) ++ Memory.read m a

/-- The bytes of a bus word, least significant first (20_memory.md R84, R86). -/
def wordBytes (v : Word) : List Byte :=
  [v.extractLsb' 0 8, v.extractLsb' 8 8, v.extractLsb' 16 8, v.extractLsb' 24 8]

/-! ### Registers -/

/-- F[i] (00_scope.md R15, 10_state.md R31). -/
def State.readF (s : State) (i : Fin 16) : Nat := s.f[i].toNat

/-- F[i] <- v, narrowed to the register's 255 bits (00_scope.md R15, 10_state.md R31). -/
def State.writeF (s : State) (i : Fin 16) (v : Nat) : State :=
  { s with f := s.f.set i (BitVec.ofNat 255 v) }

/-- The index of a point's X coordinate register, 2n (10_state.md R33). -/
def pointX (n : Fin 8) : Fin 16 := ⟨2 * n.val, by omega⟩

/-- The index of a point's Z coordinate register, 2n + 1 (10_state.md R33). -/
def pointZ (n : Fin 8) : Fin 16 := ⟨2 * n.val + 1, by omega⟩

/-- P[n] (00_scope.md R15, 10_state.md R33). -/
def State.readP (s : State) (n : Fin 8) : Point := ⟨s.readF (pointX n), s.readF (pointZ n)⟩

/-- P[n] <- q, both field registers together (00_scope.md R15, 10_state.md R33). -/
def State.writeP (s : State) (n : Fin 8) (q : Point) : State :=
  (s.writeF (pointX n) q.x).writeF (pointZ n) q.z

/-- SK (10_state.md R35). -/
def State.readSk (s : State) : Nat := s.sk.toNat

/-- SK <- v (10_state.md R35). -/
def State.writeSk (s : State) (v : Nat) : State := { s with sk := BitVec.ofNat 256 v }

/-- Slot(i), the 32 bytes from 32*i (00_scope.md R15, 20_memory.md R91). -/
def State.readSlot (s : State) (i : Fin 16) : List Byte := Memory.readBytes s.mem (32 * i.val) 32

/-- Slot(i) <- b (00_scope.md R15, 20_memory.md R91). -/
def State.writeSlot (s : State) (i : Fin 16) (b : List Byte) : State :=
  { s with mem := Memory.writeBytes s.mem (32 * i.val) b }

/-! ### How a command ends -/

/-- STATUS.BUSY: a command is accepted and not completed (10_state.md R46). -/
def State.busy (s : State) : Bool := s.pending.isSome

/-- The error causes (60_exceptions.md R270). -/
inductive ErrorCause where
  | illegal
  | invZero
  deriving DecidableEq, Repr

/-- The code an error leaves in STATUS.ERRCODE (60_exceptions.md R270). -/
def errorCode : ErrorCause → BitVec 4
  | .illegal => 1
  | .invZero => 2

/-- The bookkeeping of a completion step: PENDING <- NONE, DONE <- 1 (10_state.md R53, R47). -/
def State.finish (s : State) : State := { s with pending := none, done := true }

/-- The error record of the command word `w`, and the model's record errSeen (60_exceptions.md R275,
70_reset_and_hazards.md R336). -/
def State.recordError (s : State) (e : ErrorCause) (w : Word) : State :=
  { s with err := true, errcode := errorCode e, errcmd := w, run := { s.run with errSeen := true } }

/-- The pending command word. A step performs a command only while one is pending (10_state.md R53), so the
word 0 stands for no case a step can reach (log 10). -/
def State.pendingWord (s : State) : Word := s.pending.getD 0

/-- A command ends without error (10_state.md R53). -/
def complete (s : State) : Host.Outcome State Fault Refusal := .next s.finish

/-- `raise E(w)`: the one error entry of the block (60_exceptions.md R275). -/
def raise (e : ErrorCause) (w : Word) (s : State) : Host.Outcome State Fault Refusal :=
  .next (s.recordError e w).finish

/-! ### Reset and the run's records -/

/-- A reset of the block, hard or soft: every piece of its state at its reset value (70_reset_and_hazards.md
R310). The run it belongs to goes on (log 12). -/
def State.resetBlock (s : State) : State := { State.reset with run := s.run }

/-- A host write is dropped: STATUS.DROP <- 1, and the model's record dropSeen (10_state.md R49,
70_reset_and_hazards.md R336). -/
def State.dropWrite (s : State) : State := { s with drop := true, run := { s.run with dropSeen := true } }

/-- A host read returned `v` (70_reset_and_hazards.md R335). -/
def State.recordRead (s : State) (v : Word) : State := { s with run := { s.run with reads := s.run.reads ++ [v] } }

/-- A free draw has been made (20_memory.md R87; log 3). -/
def State.countDraw (s : State) : State := { s with run := { s.run with draws := s.run.draws + 1 } }

/-- The host performed an access outside the contract (70_reset_and_hazards.md R336). -/
def State.recordRefusal (s : State) : State := { s with run := { s.run with refused := true } }

/-- The host program without its first operation. -/
def State.popProgram (s : State) : State := { s with run := { s.run with program := s.run.program.tail } }

/-- The schedule without its first entry. -/
def State.popSchedule (s : State) : State := { s with run := { s.run with schedule := s.run.schedule.tail } }

end Sys2Proof.Machine
end

