-- ==== Sys2Proof/Machine/Flags.lean ====
section
/-! DEFINITION. The flags: how STATUS and CTRL read, the flags a conversion and a key-agreement output write,
write-1-to-clear, and the interrupt output (10_state.md R37 to R49, 60_exceptions.md R280). -/

namespace Sys2Proof.Machine

/-- What a read of STATUS returns (10_state.md R45). -/
def State.statusWord (s : State) : Word :=
  0#20 ++ s.errcode ++ 0#2 ++ BitVec.ofBool s.zero ++ BitVec.ofBool s.inf ++ BitVec.ofBool s.drop
    ++ BitVec.ofBool s.err ++ BitVec.ofBool s.done ++ BitVec.ofBool s.busy

/-- What a read of CTRL returns: reserved bits and SRST read 0 (10_state.md R43, R44). -/
def State.ctrlWord (s : State) : Word :=
  0#30 ++ BitVec.ofBool s.ieErr ++ BitVec.ofBool s.ieDone

/-- irq, a function of the current state (60_exceptions.md R280). -/
def State.irq (s : State) : Bool := (s.done && s.ieDone) || (s.err && s.ieErr)

/-- INF records whether the converted Z coordinate was 0 (10_state.md R37). -/
def State.setInf (s : State) (q : Point) : State := { s with inf := decide (q.z = 0) }

/-- ZERO records whether the key-agreement output is all zero bytes (10_state.md R38). -/
def State.setZero (s : State) (out : List Byte) : State := { s with zero := out.all (· == 0) }

/-- Write-1-to-clear of DONE (10_state.md R47). -/
def State.clearDone (s : State) (v : Word) : State := { s with done := s.done && !v.getLsbD 1 }

/-- Write-1-to-clear of ERR, with ERRCODE and ERRCMD (10_state.md R48, 60_exceptions.md R277). -/
def State.clearErr (s : State) (v : Word) : State :=
  { s with
    err := s.err && !v.getLsbD 2
    errcode := if v.getLsbD 2 then 0 else s.errcode
    errcmd := if v.getLsbD 2 then 0 else s.errcmd }

/-- Write-1-to-clear of DROP (10_state.md R49). -/
def State.clearDrop (s : State) (v : Word) : State := { s with drop := s.drop && !v.getLsbD 3 }

/-- A host write of STATUS: bits 0, 4, 5 and 11:8 are read-only, the reserved bits ignored (10_state.md R45). -/
def State.writeStatus (s : State) (v : Word) : State := ((s.clearDone v).clearErr v).clearDrop v

/-- A host write of CTRL: bit 31 resets the block, else bits 0 and 1 set the enables (10_state.md R43, R44). -/
def State.writeCtrl (s : State) (v : Word) : State :=
  if v.getLsbD 31 then s.resetBlock
  else { s with ieDone := v.getLsbD 0, ieErr := v.getLsbD 1 }

end Sys2Proof.Machine
end

