-- ==== Sys2Proof/Machine/Operands.lean ====
section
/-! DEFINITION. The operand forms of a command: kinds F, P and S, each read and written through its 4-bit field
(30_encoding.md R113), and the immediate (R114). -/

namespace Sys2Proof.Machine

/-- The register a field of kind F names (30_encoding.md R113). -/
def fIndex (r : FReg) : Fin 16 := ⟨r.toNat, r.isLt⟩

/-- The point register a field of kind P names: bits 2:0 of the field (30_encoding.md R113, R118; log
10). -/
def pIndex (r : PReg) : Fin 8 := ⟨r.toNat % 8, by omega⟩

/-- The slot a field of kind S names (30_encoding.md R113). -/
def sIndex (r : Slot) : Fin 16 := ⟨r.toNat, r.isLt⟩

/-- A source of kind F. -/
def State.srcF (s : State) (r : FReg) : Nat := s.readF (fIndex r)

/-- A destination of kind F. -/
def State.dstF (s : State) (r : FReg) (v : Nat) : State := s.writeF (fIndex r) v

/-- A source of kind P. -/
def State.srcP (s : State) (r : PReg) : Point := s.readP (pIndex r)

/-- A destination of kind P. -/
def State.dstP (s : State) (r : PReg) (q : Point) : State := s.writeP (pIndex r) q

/-- A source of kind S, a whole slot. -/
def State.srcS (s : State) (r : Slot) : List Byte := s.readSlot (sIndex r)

/-- A destination of kind S, a whole slot. -/
def State.dstS (s : State) (r : Slot) (b : List Byte) : State := s.writeSlot (sIndex r) b

/-- The immediate, zero-extended (30_encoding.md R114). -/
def immValue (imm : Imm22) : Nat := imm.toNat

end Sys2Proof.Machine
end

