-- ==== Sys2Proof/Machine/CodecCmds.lean ====
section
/-! DEFINITION. The codec commands (44_codec.md). -/

namespace Sys2Proof.Machine

/-- LDF: reduced at decode, never rejected (44_codec.md R222, R228). -/
def execLdf (d : FReg) (a : Slot) (s : State) : Host.Outcome State Fault Refusal :=
  complete (s.dstF d (bytesToField (s.srcS a)))

/-- STF (44_codec.md R223). -/
def execStf (d : Slot) (a : FReg) (s : State) : Host.Outcome State Fault Refusal :=
  complete (s.dstS d (fieldToBytes (s.srcF a)))

/-- PPROJ (44_codec.md R224). -/
def execPproj (d : PReg) (a : FReg) (s : State) : Host.Outcome State Fault Refusal :=
  complete (s.dstP d (toProjective (s.srcF a)))

/-- PINF (44_codec.md R225). -/
def execPinf (d : PReg) (s : State) : Host.Outcome State Fault Refusal :=
  complete (s.dstP d neutral)

/-- PCOMP: NONE is the value 0 with INF = 1 (44_codec.md R226). -/
def execPcomp (d : FReg) (a : PReg) (s : State) : Host.Outcome State Fault Refusal :=
  complete ((s.dstF d (compressedValue (s.srcP a))).setInf (s.srcP a))

end Sys2Proof.Machine
end

