-- ==== Sys2Proof/Machine/Field.lean ====
section
/-! DEFINITION. The field arithmetic commands (41_field.md). Each meaning is the whole completion step of its
command; sources are read from the state before any write (00_scope.md R16). -/

namespace Sys2Proof.Machine

/-- FADD (41_field.md R140). -/
def execFadd (d a b : FReg) (s : State) : Host.Outcome State Fault Refusal :=
  complete (s.dstF d (fadd (s.srcF a) (s.srcF b)))

/-- FSUB (41_field.md R141). -/
def execFsub (d a b : FReg) (s : State) : Host.Outcome State Fault Refusal :=
  complete (s.dstF d (fsub (s.srcF a) (s.srcF b)))

/-- FMUL (41_field.md R142). -/
def execFmul (d a b : FReg) (s : State) : Host.Outcome State Fault Refusal :=
  complete (s.dstF d (fmul (s.srcF a) (s.srcF b)))

/-- FPOW: the base is F[a], the exponent the integer F[b] (41_field.md R143). -/
def execFpow (d a b : FReg) (s : State) : Host.Outcome State Fault Refusal :=
  complete (s.dstF d (fpow (s.srcF a) (s.srcF b)))

/-- FINV: zero raises E_INV_ZERO and writes nothing (41_field.md R144, 60_exceptions.md R272). -/
def execFinv (d a : FReg) (s : State) : Host.Outcome State Fault Refusal :=
  if s.srcF a = 0 then raise .invZero s.pendingWord s else complete (s.dstF d (finv (s.srcF a)))

/-- FMOV (41_field.md R146). -/
def execFmov (d a : FReg) (s : State) : Host.Outcome State Fault Refusal :=
  complete (s.dstF d (s.srcF a))

/-- FLDI (41_field.md R147). -/
def execFldi (d : FReg) (imm : Imm22) (s : State) : Host.Outcome State Fault Refusal :=
  complete (s.dstF d (immValue imm))

end Sys2Proof.Machine
end

