-- ==== Sys2Proof/Machine/KeyAgreement.lean ====
section
/-! DEFINITION. The key-agreement commands (45_keyagreement.md). -/

namespace Sys2Proof.Machine

/-- What both commands do with the ladder's result `q`: the compressed bytes go to slot `d`, and INF and ZERO
are written; nothing else of the block is (45_keyagreement.md R250, R251, R252, R255). -/
def State.agree (s : State) (d : Slot) (q : Point) : State :=
  ((s.dstS d (fieldToBytes (compressedValue q))).setInf q).setZero (fieldToBytes (compressedValue q))

/-- X25519, `computeSharedSecret` (45_keyagreement.md R250). -/
def execX25519 (d a b : Slot) (s : State) : Host.Outcome State Fault Refusal :=
  complete (s.agree d (scalarMul (clamp (s.srcS a)) (toProjective (bytesToField (s.srcS b)))))

/-- X25519B, `derivePublicKey` (45_keyagreement.md R251). -/
def execX25519b (d a : Slot) (s : State) : Host.Outcome State Fault Refusal :=
  complete (s.agree d (scalarMul (clamp (s.srcS a)) (toProjective baseX)))

end Sys2Proof.Machine
end

