-- ==== Sys2Proof/Machine/LadderCmds.lean ====
section
/-! DEFINITION. The scalar and ladder commands (43_ladder.md). -/

namespace Sys2Proof.Machine

/-- LDK: all 256 bits, no clamping, no reduction (43_ladder.md R191). -/
def execLdk (a : Slot) (s : State) : Host.Outcome State Fault Refusal :=
  complete (s.writeSk (leToNat (s.srcS a)))

/-- CLAMPK (43_ladder.md R192). -/
def execClampk (a : Slot) (s : State) : Host.Outcome State Fault Refusal :=
  complete (s.writeSk (clamp (s.srcS a)))

/-- STK (43_ladder.md R193). -/
def execStk (d : Slot) (s : State) : Host.Outcome State Fault Refusal :=
  complete (s.dstS d (le32 s.readSk))

/-- LADDER (43_ladder.md R197). -/
def execLadder (d a : PReg) (s : State) : Host.Outcome State Fault Refusal :=
  complete (s.dstP d (scalarMul s.readSk (s.srcP a)))

end Sys2Proof.Machine
end

