-- ==== Sys2Proof/Machine/PointCmds.lean ====
section
/-! DEFINITION. The projective point commands (42_point.md). The formulas are computed for every pair of field
elements; no operand is checked (R170). -/

namespace Sys2Proof.Machine

/-- PDBL (42_point.md R172). -/
def execPdbl (d a : PReg) (s : State) : Host.Outcome State Fault Refusal :=
  complete (s.dstP d (dbl (s.srcP a)))

/-- PADD: P[c] is the difference point (42_point.md R173). -/
def execPadd (d a b c : PReg) (s : State) : Host.Outcome State Fault Refusal :=
  complete (s.dstP d (dadd (s.srcP a) (s.srcP b) (s.srcP c)))

end Sys2Proof.Machine
end

