-- ==== Sys2Proof/Machine/Dispatch.lean ====
section
/-! DEFINITION. One arm per command: the completion step of a decoded command (10_state.md R53). -/

namespace Sys2Proof.Machine

def exec (i : Instr) (s : State) : Host.Outcome State Fault Refusal :=
  match i with
  | .fadd d a b => Sys2Proof.Machine.execFadd d a b s
  | .fsub d a b => Sys2Proof.Machine.execFsub d a b s
  | .fmul d a b => Sys2Proof.Machine.execFmul d a b s
  | .fpow d a b => Sys2Proof.Machine.execFpow d a b s
  | .finv d a => Sys2Proof.Machine.execFinv d a s
  | .fmov d a => Sys2Proof.Machine.execFmov d a s
  | .fldi d imm => Sys2Proof.Machine.execFldi d imm s
  | .pdbl d a => Sys2Proof.Machine.execPdbl d a s
  | .padd d a b c => Sys2Proof.Machine.execPadd d a b c s
  | .ldk a => Sys2Proof.Machine.execLdk a s
  | .clampk a => Sys2Proof.Machine.execClampk a s
  | .stk d => Sys2Proof.Machine.execStk d s
  | .ladder d a => Sys2Proof.Machine.execLadder d a s
  | .ldf d a => Sys2Proof.Machine.execLdf d a s
  | .stf d a => Sys2Proof.Machine.execStf d a s
  | .pproj d a => Sys2Proof.Machine.execPproj d a s
  | .pinf d => Sys2Proof.Machine.execPinf d s
  | .pcomp d a => Sys2Proof.Machine.execPcomp d a s
  | .x25519 d a b => Sys2Proof.Machine.execX25519 d a b s
  | .x25519b d a => Sys2Proof.Machine.execX25519b d a s

end Sys2Proof.Machine
end

