-- ==== Sys2Proof/Machine/Window.lean ====
section
/-! DEFINITION. The host's side: the window and its registers, the accept of a command, one host operation,
and which agent moves next (10_state.md R40 to R56, 20_memory.md, 70_reset_and_hazards.md R335). -/

namespace Sys2Proof.Machine

/-- The window offset of a bus address, for the addresses the block decodes (20_memory.md R80). DESIGN CHOICE, unsafe
(log 14): an access is judged by its start address alone, so a misaligned access or a burst that starts below BASE and
reaches into the window, of which the spec says nothing, is none of the block's. -/
def windowOffset (addr : Nat) : Option Offset :=
  if Config.base ≤ addr ∧ addr < Config.base + 1024 then some (BitVec.ofNat 10 (addr - Config.base)) else none

/-- What an aligned window offset selects (10_state.md R40). -/
inductive WindowReg where
  | id
  | ctrl
  | status
  | cmd
  | errcmd
  | version
  | reserved
  | ram (k : Fin 128)
  deriving DecidableEq, Repr

/-- The register map (10_state.md R40, R56, 20_memory.md R84). -/
def windowReg (off : Offset) : WindowReg :=
  match off with
  | 0x000#10 => .id
  | 0x004#10 => .ctrl
  | 0x008#10 => .status
  | 0x00C#10 => .cmd
  | 0x010#10 => .errcmd
  | 0x014#10 => .version
  | _ => if off.getLsbD 9 then .ram ⟨(off.extractLsb' 2 7).toNat, (off.extractLsb' 2 7).isLt⟩ else .reserved

/-- The value of ID (10_state.md R41). -/
def idValue : Word := 0x35353258

/-- The value of VERSION (10_state.md R42). -/
def versionValue : Word := 0x00000001

/-- The access is one of the contract: 32 bits wide, aligned, no burst (20_memory.md R81, R92). -/
def contractAccess (off : Offset) (acc : Access) : Bool :=
  decide (acc.width = .word) && !acc.burst && decide (off.toNat % 4 = 0)

/-- Accept, or drop, a command word written to CMD; the word is not decoded (10_state.md R52). -/
def State.issue (s : State) (w : Word) : State :=
  if s.busy || s.err then s.dropWrite else { s with pending := some w, done := false }

/-- A host write of operand-RAM word `k` (20_memory.md R86). -/
def State.writeRam (s : State) (k : Fin 128) (v : Word) : State :=
  if s.busy then s.dropWrite else { s with mem := Memory.writeBytes s.mem (4 * k.val) (wordBytes v) }

/-- A host write of `v` at an aligned window offset (20_memory.md R88, 10_state.md R41 to R56). -/
def State.hostWrite (s : State) (off : Offset) (v : Word) : State :=
  match windowReg off with
  | .id => s
  | .ctrl => s.writeCtrl v
  | .status => s.writeStatus v
  | .cmd => s.issue v
  | .errcmd => s
  | .version => s
  | .reserved => s
  | .ram k => s.writeRam k v

/-- The value a host read at an aligned window offset returns: operand RAM read while busy is a free value
(20_memory.md R87, R88, 10_state.md R41 to R56; log 3). -/
def State.readValue (s : State) (off : Offset) : Word :=
  match windowReg off with
  | .id => idValue
  | .ctrl => s.ctrlWord
  | .status => s.statusWord
  | .cmd => 0
  | .errcmd => s.errcmd
  | .version => versionValue
  | .reserved => 0
  | .ram k => if s.busy then Config.busyRead s.run.draws else Memory.readWord s.mem (4 * k.val)

/-- The read at this offset is a free draw (20_memory.md R87). -/
def State.drawsAt (s : State) (off : Offset) : Bool :=
  match windowReg off with
  | .ram _ => s.busy
  | _ => false

/-- A host read: it changes nothing of the block, only the run's records (20_memory.md R89,
70_reset_and_hazards.md R335). -/
def State.hostRead (s : State) (off : Offset) : State :=
  if s.drawsAt off then (s.recordRead (s.readValue off)).countDraw else s.recordRead (s.readValue off)

/-- One access of the contract, atomic (20_memory.md R90). -/
def State.contractStep (s : State) (off : Offset) : AccessKind → State
  | .read => s.hostRead off
  | .write v => s.hostWrite off v

/-- The host performs an access at a window offset, and the operation leaves the program; one outside the
contract has no effect that the spec gives, so it is recorded and stays unperformed (20_memory.md R81,
70_reset_and_hazards.md R336; log 7). -/
def State.accessStep (s : State) (off : Offset) (acc : Access) : State :=
  if contractAccess off acc then (s.contractStep off acc.kind).popProgram else s.recordRefusal

/-- The host performs its next operation (00_scope.md R18, 70_reset_and_hazards.md R335); each poll of WAIT_IDLE is a
read that is recorded (log 13). An access at a bus
address outside the window is none of the block's (20_memory.md R80; log 4, log 14). -/
def State.hostStep (s : State) : State :=
  match s.run.program with
  | [] => s
  | .access off acc :: _ => s.accessStep off acc
  | .bus addr acc :: _ =>
    match windowOffset addr with
    | some off => s.accessStep off acc
    | none => s.popProgram
  | .waitIdle :: _ => if s.busy then s.hostRead 0x008 else (s.hostRead 0x008).popProgram

/-- Who moves when the schedule does not say: the engine while a command is pending, else the host, else nobody
(70_reset_and_hazards.md R330, R335; log 1). -/
def State.defaultAgent (s : State) : Option Agent :=
  if s.busy then some .engine else if s.run.program.isEmpty then none else some .host

/-- The agent that moves next. An entry of the schedule counts only if its agent can move: the host while its
program lasts, the engine while a command is pending (10_state.md R53), a reset always (70_reset_and_hazards.md
R310; log 1). -/
def State.nextAgent (s : State) : Option Agent :=
  match s.run.schedule with
  | .reset :: _ => some .reset
  | .host :: _ => if s.run.program.isEmpty then s.defaultAgent else some .host
  | .engine :: _ => if s.busy then some .engine else s.defaultAgent
  | [] => s.defaultAgent

end Sys2Proof.Machine
end

