-- ==== Sys2Proof/Machine/Step.lean ====
section
/-! DEFINITION. One step of the total order: a host operation, the engine's completion step, or a reset
(20_memory.md R94). -/

namespace Sys2Proof.Machine

/-- The engine's completion step: decode the pending word, then perform the command, or raise E_ILLEGAL
(10_state.md R53, 60_exceptions.md R271, R274). The engine takes no step while nothing is pending. -/
def completionStep (s : State) : Host.Outcome State Fault Refusal :=
  match s.pending with
  | none => .next s
  | some w =>
    match decode w with
    | .error _ => raise .illegal w s
    | .ok i => exec i s

/-- One step. A run in which the host has made an access outside the contract has no further step (20_memory.md
R81; log 7). When nobody can move, the block waits for the host (70_reset_and_hazards.md R311, R335; log 2). -/
def step (s : State) : Host.Outcome State Fault Refusal :=
  if s.run.refused then .refused .nonContractAccess
  else
    match s.nextAgent with
    | none => .next s.popSchedule
    | some .reset => .next s.popSchedule.resetBlock
    | some .host => .next s.popSchedule.hostStep
    | some .engine => completionStep s.popSchedule

/-- The state `s` with the table word pending and the engine to move next: what `step` then performs is exactly
that command (10_state.md R53, R54; log 2). -/
def State.withFetchWord (s : State) (nbits w : Nat) : State :=
  { s with
    pending := some (tableWord nbits w)
    run := { s.run with schedule := .engine :: s.run.schedule, refused := false } }

end Sys2Proof.Machine
end

