-- ==== Sys2Proof/Machine/Assembler.lean ====
section
/-! DEFINITION. The assembler syntax: from a line of text to the command it stands for (30_encoding.md R125),
with the pseudo-instructions (R126). No step of the machine uses it. -/

namespace Sys2Proof.Machine

/-- An operand as it is spelled (30_encoding.md R125). -/
inductive AsmOperand where
  | field (r : FReg)
  | point (r : PReg)
  | slot (r : Slot)
  | imm (v : Imm22)
  deriving DecidableEq, Repr

/-- The value of a digit in a base of at most 16. -/
def asmDigit (base : Nat) (c : Char) : Option Nat :=
  let n := c.toNat
  let v :=
    if 48 ≤ n ∧ n ≤ 57 then n - 48
    else if 97 ≤ n ∧ n ≤ 102 then n - 87
    else if 65 ≤ n ∧ n ≤ 70 then n - 55
    else base
  if v < base then some v else none

/-- The value of a string of digits after the value `acc` of the digits before it. -/
def asmDigits (base : Nat) : List Char → Nat → Option Nat
  | [], acc => some acc
  | c :: cs, acc => (asmDigit base c).bind fun v => asmDigits base cs (acc * base + v)

/-- A decimal or 0x-hexadecimal number (30_encoding.md R125). -/
def asmNumber : List Char → Option Nat
  | [] => none
  | '0' :: 'x' :: c :: cs => asmDigits 16 (c :: cs) 0
  | c :: cs => asmDigits 10 (c :: cs) 0

/-- A register number: decimal, below `bound` (30_encoding.md R125). -/
def asmIndex (bound : Nat) : List Char → Option (BitVec 4)
  | [] => none
  | c :: cs => (asmDigits 10 (c :: cs) 0).bind fun n => if n < bound then some (BitVec.ofNat 4 n) else none

/-- One operand: fN, pN, sN or an immediate of at most 4194303 (30_encoding.md R125). -/
def asmOperand : List Char → Option AsmOperand
  | 'f' :: cs => (asmIndex 16 cs).map .field
  | 'p' :: cs => (asmIndex 8 cs).map .point
  | 's' :: cs => (asmIndex 16 cs).map .slot
  | cs => (asmNumber cs).bind fun n => if n < 2 ^ 22 then some (.imm (BitVec.ofNat 22 n)) else none

/-- The text without the spaces at its ends. -/
def asmTrim (cs : List Char) : List Char :=
  ((cs.dropWhile (· == ' ')).reverse.dropWhile (· == ' ')).reverse

/-- The parts of a text between its commas. -/
def asmSplit : List Char → List (List Char)
  | [] => [[]]
  | c :: cs =>
    if c = ',' then [] :: asmSplit cs
    else
      match asmSplit cs with
      | [] => [[c]]
      | part :: parts => (c :: part) :: parts

/-- Every part read as an operand. -/
def asmOperands : List (List Char) → Option (List AsmOperand)
  | [] => some []
  | part :: parts => (asmOperand (asmTrim part)).bind fun o => (asmOperands parts).map (o :: ·)

/-- The form of a mnemonic in capitals, or of a pseudo-instruction, with its operands in field order
(30_encoding.md R125, R126). -/
def asmForm (mnemonic : List Char) (ops : List AsmOperand) : Option Instr :=
  match ops with
  | [.field d, .field a, .field b] =>
    if mnemonic = "FADD".toList then some (.fadd d a b)
    else if mnemonic = "FSUB".toList then some (.fsub d a b)
    else if mnemonic = "FMUL".toList then some (.fmul d a b)
    else if mnemonic = "FPOW".toList then some (.fpow d a b)
    else none
  | [.field d, .field a] =>
    if mnemonic = "FINV".toList then some (.finv d a)
    else if mnemonic = "FMOV".toList then some (.fmov d a)
    else if mnemonic = "FSQR".toList then some (.fmul d a a)
    else if mnemonic = "FDBL".toList then some (.fadd d a a)
    else none
  | [.field d, .imm v] => if mnemonic = "FLDI".toList then some (.fldi d v) else none
  | [.field d] => if mnemonic = "FCLR".toList then some (.fldi d 0) else none
  | [.point d, .point a] =>
    if mnemonic = "PDBL".toList then some (.pdbl d a)
    else if mnemonic = "LADDER".toList then some (.ladder d a)
    else none
  | [.point d, .point a, .point b, .point c] =>
    if mnemonic = "PADD".toList then some (.padd d a b c) else none
  | [.slot a] =>
    if mnemonic = "LDK".toList then some (.ldk a)
    else if mnemonic = "CLAMPK".toList then some (.clampk a)
    else if mnemonic = "STK".toList then some (.stk a)
    else none
  | [.field d, .slot a] => if mnemonic = "LDF".toList then some (.ldf d a) else none
  | [.slot d, .field a] => if mnemonic = "STF".toList then some (.stf d a) else none
  | [.point d, .field a] => if mnemonic = "PPROJ".toList then some (.pproj d a) else none
  | [.point d] => if mnemonic = "PINF".toList then some (.pinf d) else none
  | [.field d, .point a] => if mnemonic = "PCOMP".toList then some (.pcomp d a) else none
  | [.slot d, .slot a, .slot b] => if mnemonic = "X25519".toList then some (.x25519 d a b) else none
  | [.slot d, .slot a] => if mnemonic = "X25519B".toList then some (.x25519b d a) else none
  | _ => none

/-- The command a line of assembler text stands for; mnemonics are case-insensitive (30_encoding.md R125; log
11). -/
def assemble (line : String) : Option Instr :=
  let cs := asmTrim line.toList
  (asmOperands (asmSplit (cs.dropWhile (· != ' ')))).bind
    (asmForm ((cs.takeWhile (· != ' ')).map Char.toUpper))

end Sys2Proof.Machine
end

