-- ==== Sys2Proof/Safety.lean ====
section
/-! DEFINITION. The terms claims are stated in: the end of a run and its observation, a clean run, and the
invariant of the machine (70_reset_and_hazards.md R335, R336, 10_state.md R34). -/

namespace Sys2Proof.Machine

/-- The run has ended: the host program is exhausted and no command is in flight (70_reset_and_hazards.md R335). -/
def State.Ended (s : State) : Prop := s.run.program = [] ∧ s.pending = none

/-- The record of 10_state.md R30 alone, without the run. -/
def State.block (s : State) : State := { s with run := Run.launch }

/-- What a run shows: the block's state and the values the host's reads returned (70_reset_and_hazards.md R335). -/
structure Observation where
  block : State
  reads : List Word
  deriving DecidableEq, Repr

/-- The observation of a run that is in state `s` (70_reset_and_hazards.md R335). -/
def State.observe (s : State) : Observation := ⟨s.block, s.run.reads⟩

/-- No refusal and no error seen: the premise a claim takes unless it is about errors (70_reset_and_hazards.md
R336). -/
def State.Clean (s : State) : Prop := s.run.refused = false ∧ s.run.errSeen = false

/-- ERRCODE and ERRCMD describe an error: E_ILLEGAL of an illegal word, or E_INV_ZERO of a FINV (10_state.md R48,
60_exceptions.md R270). -/
def DescribesError (code : BitVec 4) (w : Word) : Prop :=
  (code = 1 ∧ ∃ r, decode w = .error r) ∨ (code = 2 ∧ ∃ d a, decode w = .ok (.finv d a))

/-- The invariant of the machine. -/
structure State.Inv (s : State) : Prop where
  /-- Every field register holds an integer in [0, p) (10_state.md R31, R34). -/
  field : ∀ i : Fin 16, s.readF i < prime
  /-- Operand RAM is in its canonical form. -/
  mem : Memory.wf s.mem = true
  /-- Without an error the record is clear (10_state.md R51, 60_exceptions.md R270). -/
  noError : s.err = false → s.errcode = 0 ∧ s.errcmd = 0
  /-- An error's record describes it (10_state.md R48). -/
  error : s.err = true → DescribesError s.errcode s.errcmd
  /-- No command runs while an error is recorded (60_exceptions.md R276, R277). -/
  failStop : s.err = true → s.pending = none
  /-- DONE = 1 means that the last accepted command has completed (10_state.md R47, D37). -/
  notDone : s.pending ≠ none → s.done = false
  /-- DROP is seen (70_reset_and_hazards.md R336). -/
  dropSeen : s.drop = true → s.run.dropSeen = true
  /-- ERR is seen (70_reset_and_hazards.md R336). -/
  errSeen : s.err = true → s.run.errSeen = true

end Sys2Proof.Machine
end

