-- ==== Sys2Proof/Certificates/Slice0/Obligations.lean ====
section
/-! DEFINITION. The statements for the provers, from the numbered rules of the spec. -/

namespace Sys2Proof.Claims

open Sys2Proof.Machine

/-! ### Frames -/

/-- A command has completed without error: DONE <- 1, PENDING <- NONE, and CTRL, the error record, DROP and the
run's records as before (10_state.md R53, R47, R48, R49). -/
structure Completed (s t : State) : Prop where
  done : t.done = true
  pending : t.pending = none
  ieDone : t.ieDone = s.ieDone
  ieErr : t.ieErr = s.ieErr
  err : t.err = s.err
  errcode : t.errcode = s.errcode
  errcmd : t.errcmd = s.errcmd
  drop : t.drop = s.drop
  run : t.run = s.run

/-- Every field register is as before. -/
def SameFields (s t : State) : Prop := ∀ j : Fin 16, t.readF j = s.readF j

/-- Every byte of operand RAM reads as before. -/
def SameMemory (s t : State) : Prop := ∀ a : Nat, Memory.read t.mem a = Memory.read s.mem a

/-- Every byte of operand RAM outside slot `i` reads as before. -/
def SameMemoryOutside (i : Fin 16) (s t : State) : Prop :=
  ∀ a : Nat, a < 32 * i.val ∨ 32 * i.val + 32 ≤ a → Memory.read t.mem a = Memory.read s.mem a

/-- INF and ZERO are as before. -/
def SameFlags (s t : State) : Prop := t.inf = s.inf ∧ t.zero = s.zero

/-- A completed command that writes `v` to the field register `r` names, and nothing else. -/
def WritesField (r : FReg) (v : Nat) (s t : State) : Prop :=
  Completed s t ∧ t.readF (fIndex r) = v ∧ (∀ j : Fin 16, j ≠ fIndex r → t.readF j = s.readF j) ∧
    t.sk = s.sk ∧ SameMemory s t ∧ SameFlags s t

/-- A completed command that writes `q` to the point register `r` names, and nothing else. -/
def WritesPoint (r : PReg) (q : Point) (s t : State) : Prop :=
  Completed s t ∧ t.readP (pIndex r) = q ∧
    (∀ j : Fin 16, j ≠ pointX (pIndex r) → j ≠ pointZ (pIndex r) → t.readF j = s.readF j) ∧
    t.sk = s.sk ∧ SameMemory s t ∧ SameFlags s t

/-- A completed command that writes `v` to SK, and nothing else. -/
def WritesScalar (v : Nat) (s t : State) : Prop :=
  Completed s t ∧ t.readSk = v ∧ SameFields s t ∧ SameMemory s t ∧ SameFlags s t

/-- A completed command that writes `b` to the slot `r` names, and nothing else. -/
def WritesSlot (r : Slot) (b : List Byte) (s t : State) : Prop :=
  Completed s t ∧ t.readSlot (sIndex r) = b ∧ SameMemoryOutside (sIndex r) s t ∧ SameFields s t ∧
    t.sk = s.sk ∧ SameFlags s t

/-- A completed key-agreement command: the ladder's result `q` goes to the slot `r` names as 32 bytes, zero bytes
for the point at infinity, INF and ZERO say which, the bytes always encode a field element (so bit 255 is 0), and
nothing else is written (45_keyagreement.md R250, R252, R255). -/
def WritesAgreement (r : Slot) (q : Point) (s t : State) : Prop :=
  Completed s t ∧
    (q.z = 0 → t.readSlot (sIndex r) = List.replicate 32 0 ∧ t.inf = true) ∧
    (q.z ≠ 0 → t.readSlot (sIndex r) = le32 (q.x * (q.z ^ (prime - 2) % prime) % prime) ∧ t.inf = false) ∧
    (t.zero = true ↔ t.readSlot (sIndex r) = List.replicate 32 0) ∧
    (∃ v, v < prime ∧ v.testBit 255 = false ∧ t.readSlot (sIndex r) = le32 v ∧
      leToNat (t.readSlot (sIndex r)) = v) ∧
    SameMemoryOutside (sIndex r) s t ∧ SameFields s t ∧ t.sk = s.sk

/-- The error entry: the record of code `code` and word `w`, DONE <- 1, PENDING <- NONE, and nothing else of the
block; the model's errSeen is set (60_exceptions.md R275, 70_reset_and_hazards.md R336). -/
structure ErrorRecorded (code : BitVec 4) (w : Word) (s t : State) : Prop where
  err : t.err = true
  errcode : t.errcode = code
  errcmd : t.errcmd = w
  done : t.done = true
  pending : t.pending = none
  fields : SameFields s t
  sk : t.sk = s.sk
  memory : SameMemory s t
  flags : SameFlags s t
  drop : t.drop = s.drop
  ieDone : t.ieDone = s.ieDone
  ieErr : t.ieErr = s.ieErr
  run : t.run = { s.run with errSeen := true }

/-- The commands of a list, one after another, each from the state the one before it answered. -/
def execAll : List Instr → State → Host.Outcome State Fault Refusal
  | [], s => .next s
  | i :: is, s =>
    match exec i s with
    | .next t => execAll is t
    | .fault r => .fault r
    | .refused r => .refused r

/-- The command an opcode names, with the operand fields of the word (30_encoding.md R115, R118). -/
def commandOf (op : BitVec 6) (w : Word) : Option Instr :=
  let d := dField w
  let a := aField w
  let b := bField w
  let c := cField w
  match op with
  | 0x01#6 => some (.fadd d a b)
  | 0x02#6 => some (.fsub d a b)
  | 0x03#6 => some (.fmul d a b)
  | 0x04#6 => some (.fpow d a b)
  | 0x05#6 => some (.finv d a)
  | 0x06#6 => some (.fmov d a)
  | 0x07#6 => some (.fldi d (immField w))
  | 0x10#6 => some (.pdbl d a)
  | 0x11#6 => some (.padd d a b c)
  | 0x18#6 => some (.ldk a)
  | 0x19#6 => some (.clampk a)
  | 0x1A#6 => some (.stk d)
  | 0x1B#6 => some (.ladder d a)
  | 0x20#6 => some (.ldf d a)
  | 0x21#6 => some (.stf d a)
  | 0x22#6 => some (.pproj d a)
  | 0x23#6 => some (.pinf d)
  | 0x24#6 => some (.pcomp d a)
  | 0x30#6 => some (.x25519 d a b)
  | 0x31#6 => some (.x25519b d a)
  | _ => none

/-- The word `w` is the command `i` if `legal`, and no command if not (30_encoding.md R115, R117). -/
def EncodedBy (w : Word) (i : Instr) (legal : Prop) : Prop :=
  (legal → decode w = .ok i) ∧ (¬legal → ∃ e, decode w = .error e)

/-- A FINV whose source is 0, the one command that raises an error (60_exceptions.md R272). -/
def InvertsZero (i : Instr) (s : State) : Prop := ∃ d a, i = .finv d a ∧ s.srcF a = 0

/-- The host write is a soft reset (10_state.md R44). -/
def IsSoftReset (off : Offset) (v : Word) : Prop := off = 0x004 ∧ v.getLsbD 31 = true

end Sys2Proof.Claims

open Sys2Proof Sys2Proof.Machine Sys2Proof.Claims

/-! ### Encoding -/

/-- The worked examples of 30_encoding.md R127: the lines assemble to the words, the words decode to the
commands, and the last three are rejected. -/
def Obligations.WorkedExampleWordsDecode : Prop :=
  (assemble "FADD f3, f1, f2").map encode = some 0x04C48000 ∧ decode 0x04C48000 = .ok (.fadd 3 1 2) ∧
  (assemble "FLDI f0, 9").map encode = some 0x1C000009 ∧ decode 0x1C000009 = .ok (.fldi 0 9) ∧
  (assemble "PADD p1, p2, p3, p0").map encode = some 0x4448C000 ∧ decode 0x4448C000 = .ok (.padd 1 2 3 0) ∧
  (assemble "LADDER p2, p1").map encode = some 0x6C840000 ∧ decode 0x6C840000 = .ok (.ladder 2 1) ∧
  (assemble "PCOMP f0, p2").map encode = some 0x90080000 ∧ decode 0x90080000 = .ok (.pcomp 0 2) ∧
  (assemble "X25519 s2, s0, s1").map encode = some 0xC0804000 ∧ decode 0xC0804000 = .ok (.x25519 2 0 1) ∧
  (assemble "X25519B s1, s0").map encode = some 0xC4400000 ∧ decode 0xC4400000 = .ok (.x25519b 1 0) ∧
  assemble "PDBL p8, p0" = none ∧ decode 0x42000000 = .error .pointIndex ∧
  decode 0x04000001 = .error .reservedBits

/-- Every well-formed command is read back from its own word, every operand whole (30_encoding.md R111, R112,
R115). -/
def Obligations.DecodeOfEncodeIsTheCommand : Prop :=
  ∀ i : Instr, i.wellFormed = true → decode (encode i) = .ok i

/-- Every word that decodes is the word of the command it decodes to, and that command is well formed
(30_encoding.md R111, R112, R117). -/
def Obligations.EncodeOfDecodeIsTheWord : Prop :=
  ∀ (w : Word) (i : Instr), decode w = .ok i → encode i = w ∧ i.wellFormed = true

/-- Decoding is the look-up in the opcode map: a row that matches gives its command with the word's fields, a word
no row matches is illegal, and no word matches two rows (30_encoding.md R118). -/
def Obligations.DecodeIsTheOpcodeMapLookup : Prop :=
  ∀ w : Word,
    (∀ r ∈ opcodeMap, w &&& r.mask = r.pattern → ∃ i, commandOf r.op w = some i ∧ decode w = .ok i) ∧
    ((∀ r ∈ opcodeMap, w &&& r.mask ≠ r.pattern) → ∃ e, decode w = .error e) ∧
    (∀ r ∈ opcodeMap, ∀ r' ∈ opcodeMap, w &&& r.mask = r.pattern → w &&& r'.mask = r'.pattern → r = r')

/-- 67135160 of the 2^32 words are legal commands (30_encoding.md R116). -/
def Obligations.LegalWordsNumber67135160 : Prop :=
  Nat.card (Subtype fun w : Word => ∃ i, decode w = .ok i) = 67135160

/-- The hard-wired constants: p, the coefficients A and B, Gx, l, A + 2 and a quarter of it (00_scope.md R7, R8, R9). -/
def Obligations.HardwiredConstants : Prop :=
  (prime = 2 ^ 255 - 19 ∧ prime = 0x7FFFFFFFFFFFFFFFFFFFFFFFFFFFFFFFFFFFFFFFFFFFFFFFFFFFFFFFFFFFFFED) ∧
  curveA = 486662 ∧ curveB = 1 ∧ baseX = 9 ∧
  subgroupOrder = 2 ^ 252 + 27742317777372353535851937790883648493 ∧
  subgroupOrder = 0x1000000000000000000000000000000014DEF9DEA2F79CD65812631A5CF5D3ED ∧
  curveAPlus2 = 486664 ∧ curveAPlus2 = curveA + 2 ∧ curveAPlus2 / 4 = 121666

/-! ### The field arithmetic commands -/

/-- FADD (41_field.md R140). -/
def Obligations.FaddWritesTheSumModP : Prop :=
  ∀ (d a b : FReg) (s : State),
    (∀ c rsv, EncodedBy (packR 0x01 d a b c rsv) (.fadd d a b) (c = 0 ∧ rsv = 0)) ∧
    ∃ t, exec (.fadd d a b) s = .next t ∧ WritesField d ((s.srcF a + s.srcF b) % prime) s t

/-- FSUB: the residue of the integer difference, never negative (41_field.md R141). -/
def Obligations.FsubWritesTheDifferenceModP : Prop :=
  ∀ (d a b : FReg) (s : State),
    (∀ c rsv, EncodedBy (packR 0x02 d a b c rsv) (.fsub d a b) (c = 0 ∧ rsv = 0)) ∧
    ∃ t, ∃ v : Nat, exec (.fsub d a b) s = .next t ∧
      (v : Int) = ((s.srcF a : Int) - (s.srcF b : Int)) % (prime : Int) ∧ WritesField d v s t

/-- FMUL (41_field.md R142). -/
def Obligations.FmulWritesTheProductModP : Prop :=
  ∀ (d a b : FReg) (s : State),
    (∀ c rsv, EncodedBy (packR 0x03 d a b c rsv) (.fmul d a b) (c = 0 ∧ rsv = 0)) ∧
    ∃ t, exec (.fmul d a b) s = .next t ∧ WritesField d (s.srcF a * s.srcF b % prime) s t

/-- FPOW: the power itself, whatever the square-and-multiply does; exponent 0 gives 1 (41_field.md R143). -/
def Obligations.FpowWritesThePowerModP : Prop :=
  ∀ (d a b : FReg) (s : State),
    (∀ c rsv, EncodedBy (packR 0x04 d a b c rsv) (.fpow d a b) (c = 0 ∧ rsv = 0)) ∧
    ∃ t, exec (.fpow d a b) s = .next t ∧ WritesField d (s.srcF a ^ s.srcF b % prime) s t

/-- FINV: for a register that is not 0, the unique inverse in [1, p); for 0, E_INV_ZERO with the pending word, and no
field register written (41_field.md R144). The premise is the invariant of 10_state.md R31. -/
def Obligations.FinvWritesTheInverseOrRaises : Prop :=
  ∀ (d a : FReg) (s : State), (∀ j : Fin 16, s.readF j < prime) →
    (∀ b c rsv, EncodedBy (packR 0x05 d a b c rsv) (.finv d a) (b = 0 ∧ c = 0 ∧ rsv = 0)) ∧
    (s.srcF a ≠ 0 → ∃ t, ∃ v : Nat, exec (.finv d a) s = .next t ∧ WritesField d v s t ∧
      v = s.srcF a ^ (prime - 2) % prime ∧ 1 ≤ v ∧ v < prime ∧ v * s.srcF a % prime = 1 ∧
      ∀ x : Nat, 1 ≤ x → x < prime → x * s.srcF a % prime = 1 → x = v) ∧
    (s.srcF a = 0 → ∀ w, s.pending = some w →
      ∃ t, exec (.finv d a) s = .next t ∧ ErrorRecorded 2 w s t)

/-- FMOV (41_field.md R146) and FLDI (41_field.md R147). -/
def Obligations.FmovAndFldiWriteTheirSource : Prop :=
  ∀ (d a : FReg) (imm : Imm22) (s : State),
    ((∀ b c rsv, EncodedBy (packR 0x06 d a b c rsv) (.fmov d a) (b = 0 ∧ c = 0 ∧ rsv = 0)) ∧
      ∃ t, exec (.fmov d a) s = .next t ∧ WritesField d (s.srcF a) s t) ∧
    (decode (packI 0x07 d imm) = .ok (.fldi d imm) ∧
      ∃ t, exec (.fldi d imm) s = .next t ∧ WritesField d imm.toNat s t)

/-- The inverse is the same by Fermat exponentiation and by the extended Euclidean algorithm (41_field.md R145). -/
def Obligations.InversionMethodIsNotObservable : Prop :=
  ∀ (m : Config.InvMethod) (a : Nat), 0 < a → a < prime → finvBy m a = finv a

/-! ### The projective point commands -/

/-- The doubling function in ordinary notation, and in the equivalent form with 121666 (42_point.md R171). -/
def Obligations.DoublingFormula : Prop :=
  ∀ q : Point,
    ((dbl q).x : Int) = ((q.x : Int) + q.z) ^ 2 * ((q.x : Int) - q.z) ^ 2 % prime ∧
    ((dbl q).z : Int) = 4 * q.x * q.z * (((q.x : Int) - q.z) ^ 2 + 486664 * (q.x * q.z)) % prime ∧
    ((dbl q).z : Int) =
      4 * q.x * q.z * (((q.x : Int) - q.z) ^ 2 + 121666 * (4 * q.x * q.z)) % prime

/-- The differential-addition formula in ordinary notation, and its symmetry (42_point.md R174). -/
def Obligations.DifferentialAdditionFormula : Prop :=
  ∀ q1 q2 d : Point, ∀ S T : Int,
    S = ((q2.x : Int) - q2.z) * (q1.x + q1.z) → T = ((q2.x : Int) + q2.z) * (q1.x - q1.z) →
    ((dadd q1 q2 d).x : Int) = d.z * (S + T) ^ 2 % prime ∧
    ((dadd q1 q2 d).z : Int) = d.x * (S - T) ^ 2 % prime ∧
    dadd q2 q1 d = dadd q1 q2 d

/-- PDBL (42_point.md R172). -/
def Obligations.PdblWritesTheDouble : Prop :=
  ∀ (d a : PReg) (s : State),
    (∀ b c rsv,
      EncodedBy (packR 0x10 d a b c rsv) (.pdbl d a) (d < 8 ∧ a < 8 ∧ b = 0 ∧ c = 0 ∧ rsv = 0)) ∧
    ∃ t, exec (.pdbl d a) s = .next t ∧ WritesPoint d (dbl (s.srcP a)) s t

/-- PADD (42_point.md R173). -/
def Obligations.PaddWritesTheDifferentialSum : Prop :=
  ∀ (d a b c : PReg) (s : State),
    (∀ rsv,
      EncodedBy (packR 0x11 d a b c rsv) (.padd d a b c) (d < 8 ∧ a < 8 ∧ b < 8 ∧ c < 8 ∧ rsv = 0)) ∧
    ∃ t, exec (.padd d a b c) s = .next t ∧ WritesPoint d (dadd (s.srcP a) (s.srcP b) (s.srcP c)) s t

/-! ### The scalar and ladder commands -/

/-- LDK (43_ladder.md R191) and CLAMPK (43_ladder.md R192). -/
def Obligations.LdkAndClampkLoadTheScalar : Prop :=
  ∀ (a : Slot) (s : State),
    ((∀ d b c rsv,
        EncodedBy (packR 0x18 d a b c rsv) (.ldk a) (d = 0 ∧ b = 0 ∧ c = 0 ∧ rsv = 0)) ∧
      ∃ t, exec (.ldk a) s = .next t ∧ WritesScalar (leToNat (s.srcS a)) s t) ∧
    ((∀ d b c rsv,
        EncodedBy (packR 0x19 d a b c rsv) (.clampk a) (d = 0 ∧ b = 0 ∧ c = 0 ∧ rsv = 0)) ∧
      ∃ t, exec (.clampk a) s = .next t ∧ WritesScalar (clamp (s.srcS a)) s t)

/-- STK (43_ladder.md R193). The premise is the canonical form of operand RAM. -/
def Obligations.StkStoresTheScalar : Prop :=
  ∀ (d : Slot) (s : State), Memory.wf s.mem = true →
    (∀ a b c rsv, EncodedBy (packR 0x1A d a b c rsv) (.stk d) (a = 0 ∧ b = 0 ∧ c = 0 ∧ rsv = 0)) ∧
    ∃ t, exec (.stk d) s = .next t ∧ WritesSlot d (le32 s.readSk) s t ∧
      leToNat (t.readSlot (sIndex d)) = s.readSk

/-- LADDER (43_ladder.md R197). -/
def Obligations.LadderWritesTheScalarMultiple : Prop :=
  ∀ (d a : PReg) (s : State),
    (∀ b c rsv,
      EncodedBy (packR 0x1B d a b c rsv) (.ladder d a) (d < 8 ∧ a < 8 ∧ b = 0 ∧ c = 0 ∧ rsv = 0)) ∧
    ∃ t, exec (.ladder d a) s = .next t ∧ WritesPoint d (scalarMul s.readSk (s.srcP a)) s t

/-- Clamping a 32-byte string, in bytes and as an integer, and its properties (43_ladder.md R194, R195). -/
def Obligations.ClampForcesTheFiveBits : Prop :=
  ∀ b : List Byte, b.length = 32 →
    (∃ c : List Byte, c.length = 32 ∧ clamp b = leToNat c ∧
      c.getD 0 0 = b.getD 0 0 &&& 0xF8 ∧ c.getD 31 0 = (b.getD 31 0 &&& 0x7F) ||| 0x40 ∧
      ∀ k, 0 < k → k < 31 → c.getD k 0 = b.getD k 0) ∧
    clamp b = (leToNat b &&& (2 ^ 255 - 8)) ||| 2 ^ 254 ∧
    ((clamp b).testBit 0 = false ∧ (clamp b).testBit 1 = false ∧ (clamp b).testBit 2 = false ∧
      (clamp b).testBit 255 = false ∧ (clamp b).testBit 254 = true) ∧
    (clamp b % 8 = 0 ∧ 2 ^ 254 ≤ clamp b ∧ clamp b < 2 ^ 255) ∧
    clamp (le32 (clamp b)) = clamp b ∧
    ∀ b' : List Byte, b'.length = 32 →
      (∀ k, k ∉ [0, 1, 2, 254, 255] → (leToNat b').testBit k = (leToNat b).testBit k) → clamp b' = clamp b

/-- The ladder runs exactly 256 iterations, bit 255 first, each from the old pair (43_ladder.md R196). -/
def Obligations.ScalarMulIsTheLadder : Prop :=
  ∀ (k : Nat) (pt : Point), k < 2 ^ 256 →
    ∃ q r : Nat → Point, q 256 = ⟨1, 0⟩ ∧ r 256 = pt ∧ scalarMul k pt = q 0 ∧
      ∀ i, i < 256 →
        (k.testBit i = false → q i = dbl (q (i + 1)) ∧ r i = dadd (q (i + 1)) (r (i + 1)) pt) ∧
        (k.testBit i = true → q i = dadd (q (i + 1)) (r (i + 1)) pt ∧ r i = dbl (r (i + 1)))

/-- The conditional-swap loop gives the same accumulators as the ladder after any number of iterations
(43_ladder.md R199). -/
def Obligations.ConditionalSwapLoopIsTheLadder : Prop :=
  ∀ (k : Nat) (pt : Point) (n : Nat) (qr : Accumulators), cswapBits k pt n qr = ladderBits k pt n qr

/-- The degenerate inputs (43_ladder.md R200). -/
def Obligations.DegenerateLadderInputs : Prop :=
  ∀ (k : Nat) (pt : Point), k < 2 ^ 256 →
    (k = 0 → scalarMul k pt = ⟨1, 0⟩) ∧
    (1 ≤ k → pt.x = 0 → scalarMul k pt = ⟨0, 0⟩) ∧
    (1 ≤ k → pt.z = 0 → scalarMul k pt = ⟨0, 0⟩)

/-! ### The codec commands -/

/-- Decoding bytes takes all 256 bits and reduces by p or 2p; the round trip is the identity on field elements, and
not on the strings of values from p on; and the ladder's result, from which the key-agreement commands encode their
output, does not depend on whether the reduction happens at decode or later (44_codec.md R220, R221). -/
def Obligations.BytesToFieldAndBack : Prop :=
  (∀ b : List Byte, b.length = 32 →
    bytesToField b = leToNat b % prime ∧ bytesToField b < prime ∧
    (leToNat b < prime → bytesToField b = leToNat b) ∧
    (prime ≤ leToNat b → leToNat b < 2 * prime → bytesToField b = leToNat b - prime) ∧
    (2 * prime ≤ leToNat b → bytesToField b = leToNat b - 2 * prime ∧ bytesToField b ≤ 37) ∧
    (prime ≤ leToNat b → fieldToBytes (bytesToField b) ≠ b)) ∧
  (∀ x : Nat, x < prime →
    (fieldToBytes x).length = 32 ∧ leToNat (fieldToBytes x) = x ∧ x.testBit 255 = false ∧
    bytesToField (fieldToBytes x) = x) ∧
  ∀ k u : Nat, scalarMul k ⟨u % prime, 1⟩ = scalarMul k ⟨u, 1⟩

/-- A conversion to affine form divides X by Z, or is absent for Z = 0 (44_codec.md R227). -/
def Obligations.ToCompressedDividesXByZ : Prop :=
  ∀ q : Point, q.x < prime → q.z < prime →
    (q.z = 0 → toCompressed q = none) ∧
    (q.z ≠ 0 → ∃ v, toCompressed q = some v ∧ v < prime ∧ v * q.z % prime = q.x)

/-- LDF (44_codec.md R222). -/
def Obligations.LdfLoadsTheReducedValue : Prop :=
  ∀ (d : FReg) (a : Slot) (s : State),
    (∀ b c rsv, EncodedBy (packR 0x20 d a b c rsv) (.ldf d a) (b = 0 ∧ c = 0 ∧ rsv = 0)) ∧
    ∃ t, exec (.ldf d a) s = .next t ∧ WritesField d (leToNat (s.srcS a) % prime) s t

/-- STF (44_codec.md R223). The premise is the canonical form of operand RAM. -/
def Obligations.StfStoresTheFieldElement : Prop :=
  ∀ (d : Slot) (a : FReg) (s : State), Memory.wf s.mem = true →
    (∀ b c rsv, EncodedBy (packR 0x21 d a b c rsv) (.stf d a) (b = 0 ∧ c = 0 ∧ rsv = 0)) ∧
    ∃ t, exec (.stf d a) s = .next t ∧ WritesSlot d (le32 (s.srcF a)) s t ∧
      leToNat (t.readSlot (sIndex d)) = s.srcF a

/-- PPROJ and PINF, the two cases of the conversion to projective form (44_codec.md R224, R225, R229). -/
def Obligations.PprojAndPinfWriteProjectivePoints : Prop :=
  ∀ (d : PReg) (a : FReg) (s : State),
    ((∀ b c rsv, EncodedBy (packR 0x22 d a b c rsv) (.pproj d a) (d < 8 ∧ b = 0 ∧ c = 0 ∧ rsv = 0)) ∧
      ∃ t, exec (.pproj d a) s = .next t ∧ WritesPoint d ⟨s.srcF a, 1⟩ s t) ∧
    ((∀ a' b c rsv,
        EncodedBy (packR 0x23 d a' b c rsv) (.pinf d) (d < 8 ∧ a' = 0 ∧ b = 0 ∧ c = 0 ∧ rsv = 0)) ∧
      ∃ t, exec (.pinf d) s = .next t ∧ WritesPoint d ⟨1, 0⟩ s t)

/-- PCOMP (44_codec.md R226). -/
def Obligations.PcompWritesTheAffineX : Prop :=
  ∀ (d : FReg) (a : PReg) (s : State),
    (∀ b c rsv, EncodedBy (packR 0x24 d a b c rsv) (.pcomp d a) (a < 8 ∧ b = 0 ∧ c = 0 ∧ rsv = 0)) ∧
    ∃ t, exec (.pcomp d a) s = .next t ∧ Completed s t ∧
      ((s.srcP a).z = 0 → t.readF (fIndex d) = 0 ∧ t.inf = true) ∧
      ((s.srcP a).z ≠ 0 → t.inf = false ∧
        t.readF (fIndex d) = (s.srcP a).x * ((s.srcP a).z ^ (prime - 2) % prime) % prime) ∧
      (∀ j : Fin 16, j ≠ fIndex d → t.readF j = s.readF j) ∧
      t.sk = s.sk ∧ SameMemory s t ∧ t.zero = s.zero

/-! ### The key-agreement commands -/

/-- X25519 and X25519B: the key-agreement bytes go to slot d, INF and ZERO say what they are, and nothing else is
written (45_keyagreement.md R250, R251, R252, R255). The premise is the canonical form of operand RAM. -/
def Obligations.KeyAgreementWritesSlotInfAndZero : Prop :=
  ∀ (d a b : Slot) (s : State), Memory.wf s.mem = true →
    ((∀ c rsv, EncodedBy (packR 0x30 d a b c rsv) (.x25519 d a b) (c = 0 ∧ rsv = 0)) ∧
      ∃ t, exec (.x25519 d a b) s = .next t ∧
        WritesAgreement d (scalarMul (clamp (s.srcS a)) ⟨leToNat (s.srcS b) % prime, 1⟩) s t) ∧
    ((∀ b' c rsv, EncodedBy (packR 0x31 d a b' c rsv) (.x25519b d a) (b' = 0 ∧ c = 0 ∧ rsv = 0)) ∧
      ∃ t, exec (.x25519b d a) s = .next t ∧ WritesAgreement d (scalarMul (clamp (s.srcS a)) ⟨9, 1⟩) s t)

/-- Slot d and INF after X25519 are those after the sequence of primitive commands; the sequence also writes SK, F0 and
F2 to F5, no other field register and not ZERO (45_keyagreement.md R253). The premise is the canonical form of operand
RAM. -/
def Obligations.X25519IsThePrimitiveSequence : Prop :=
  ∀ (d a b : Slot) (s : State), Memory.wf s.mem = true →
    ∃ t u, exec (.x25519 d a b) s = .next t ∧
      execAll [.clampk a, .ldf 0 b, .pproj 1 0, .ladder 2 1, .pcomp 0 2, .stf d 0] s = .next u ∧
      u.readSlot (sIndex d) = t.readSlot (sIndex d) ∧ u.inf = t.inf ∧ u.zero = s.zero ∧
      u.readSk = clamp (s.srcS a) ∧ t.readSk = s.readSk ∧
      (∀ j : Fin 16, t.readF j = s.readF j) ∧ ∀ j : Fin 16, j ∉ [0, 2, 3, 4, 5] → u.readF j = s.readF j

/-- X25519B does exactly what X25519 does with a peer slot that holds 9, or any value congruent to 9 modulo p
(45_keyagreement.md R250, R251). -/
def Obligations.X25519bIsX25519OnTheBasePoint : Prop :=
  ∀ (d a b : Slot) (s : State), leToNat (s.srcS b) % prime = 9 → exec (.x25519 d a b) s = exec (.x25519b d a) s

/-! ### Whole-machine rules about the commands -/

/-- A completion step ends in one of three ways: E_ILLEGAL for a word that is no command, E_INV_ZERO for a FINV of 0,
and else completion without error; nothing else raises (60_exceptions.md R271, R272, R274). -/
def Obligations.CompletionStepEndsInOneOfThreeWays : Prop :=
  ∀ (s : State) (w : Word), s.pending = some w →
    ∃ t, completionStep s = .next t ∧
      ((∀ i, decode w ≠ .ok i) → ErrorRecorded 1 w s t) ∧
      ∀ i, decode w = .ok i →
        completionStep s = exec i s ∧
        (InvertsZero i s → ErrorRecorded 2 w s t) ∧ (¬InvertsZero i s → Completed s t)

/-- SK is written only by LDK and CLAMPK, INF only by PCOMP and the key-agreement commands, ZERO only by the latter; and
no host write but a soft reset changes SK, INF, ZERO or a field register (10_state.md R31, R35, R37, R38). -/
def Obligations.WritersOfScalarAndConversionFlags : Prop :=
  (∀ (i : Instr) (s t : State), exec i s = .next t →
    (t.sk ≠ s.sk → ∃ a, i = .ldk a ∨ i = .clampk a) ∧
    (t.inf ≠ s.inf → (∃ d a, i = .pcomp d a) ∨ (∃ d a b, i = .x25519 d a b) ∨ ∃ d a, i = .x25519b d a) ∧
    (t.zero ≠ s.zero → (∃ d a b, i = .x25519 d a b) ∨ ∃ d a, i = .x25519b d a)) ∧
  ∀ (s : State) (off : Offset) (v : Word), ¬IsSoftReset off v →
    (s.hostWrite off v).sk = s.sk ∧ (s.hostWrite off v).inf = s.inf ∧ (s.hostWrite off v).zero = s.zero ∧
    (s.hostWrite off v).f = s.f

/-! ### Errors and the interrupt -/

/-- The error entry, for both codes (60_exceptions.md R275). -/
def Obligations.ErrorEntryRecordsAndNothingElse : Prop :=
  ∀ (w : Word) (s : State),
    (∃ t, raise .illegal w s = .next t ∧ ErrorRecorded 1 w s t) ∧
    (∃ t, raise .invZero w s = .next t ∧ ErrorRecorded 2 w s t)

/-- The host's write-1-to-clear of ERR clears ERRCODE and ERRCMD with it, and changes no other thing if it has only
that bit; then, with nothing pending, a command is accepted again (60_exceptions.md R277, 10_state.md R48). -/
def Obligations.ClearingErrAllowsCommandsAgain : Prop :=
  ∀ (s : State) (v w : Word), v.getLsbD 2 = true → s.pending = none →
    (s.hostWrite 0x008 v).err = false ∧ (s.hostWrite 0x008 v).errcode = 0 ∧ (s.hostWrite 0x008 v).errcmd = 0 ∧
    s.hostWrite 0x008 4 = { s with err := false, errcode := 0, errcmd := 0 } ∧
    ((s.hostWrite 0x008 v).hostWrite 0x00C w).pending = some w

/-- While an error is recorded nothing becomes pending in one step (60_exceptions.md R276, R277). The premise is the
model's invariant. -/
def Obligations.NoCommandIsAcceptedWhileErr : Prop :=
  ∀ s t : State, s.Inv → s.err = true → step s = .next t → t.pending = none

/-- irq is the level of the enabled sources: it rises in the completion step, with or without an error, and falls in
the write that clears the source, in the write that clears the enable and in a reset (60_exceptions.md R280,
70_reset_and_hazards.md R314). -/
def Obligations.InterruptFollowsTheEnabledSources : Prop :=
  ∀ s : State,
    (s.irq = true ↔ (s.done = true ∧ s.ieDone = true) ∨ (s.err = true ∧ s.ieErr = true)) ∧
    (∀ i t, exec i s = .next t → s.ieDone = true → t.irq = true) ∧
    (∀ e w t, raise e w s = .next t → s.ieDone = true ∨ s.ieErr = true → t.irq = true) ∧
    (s.err = false → (s.hostWrite 0x008 2).irq = false) ∧ (s.hostWrite 0x008 6).irq = false ∧
    (s.hostWrite 0x004 0).irq = false ∧ (s.hostWrite 0x004 0x80000000).irq = false ∧ s.resetBlock.irq = false

/-! ### The host's side -/

/-- ID and VERSION read their constants and ERRCMD its field, and a write to them changes nothing; the reserved offsets
read 0 and ignore writes (10_state.md R41, R42, R51, R56). -/
def Obligations.ConstantAndReservedRegisters : Prop :=
  ∀ (s : State) (off : Offset) (v : Word),
    (off = 0x000 → s.readValue off = 0x35353258 ∧ s.hostWrite off v = s) ∧
    (off = 0x010 → s.readValue off = s.errcmd ∧ s.hostWrite off v = s) ∧
    (off = 0x014 → s.readValue off = 1 ∧ s.hostWrite off v = s) ∧
    (0x018 ≤ off.toNat → off.toNat ≤ 0x1FC → off.toNat % 4 = 0 → s.readValue off = 0 ∧ s.hostWrite off v = s)

/-- A CTRL write with bit 31 = 0 sets the two enables and nothing else; with bit 31 = 1 it is a soft reset in every
state, the other bits ignored; CTRL reads the enables, its other bits read 0 (10_state.md R43, R44,
70_reset_and_hazards.md R310). That a soft reset leaves the run as it was is the model's choice (log 12). -/
def Obligations.CtrlWriteSetsTheEnablesOrResets : Prop :=
  ∀ (s : State) (v : Word),
    (v.getLsbD 31 = false → s.hostWrite 0x004 v = { s with ieDone := v.getLsbD 0, ieErr := v.getLsbD 1 }) ∧
    (v.getLsbD 31 = true →
      (s.hostWrite 0x004 v).block = State.reset.block ∧ (s.hostWrite 0x004 v).run = s.run) ∧
    (s.readValue 0x004).toNat = s.ieDone.toNat + 2 * s.ieErr.toNat ∧ State.reset.readValue 0x004 = 0

/-- How STATUS reads, and what a write of it clears, bit by bit; nothing else changes, so the write is never dropped
and BUSY, INF, ZERO and the reserved bits are not writable (10_state.md R45, R46, R47, R48). -/
def Obligations.StatusReadsItsFieldsAndClearsOnOne : Prop :=
  ∀ (s : State) (v : Word),
    (s.readValue 0x008).toNat =
      (if s.pending = none then 0 else 1) + 2 * s.done.toNat + 4 * s.err.toNat + 8 * s.drop.toNat +
        16 * s.inf.toNat + 32 * s.zero.toNat + 256 * s.errcode.toNat ∧
    s.hostWrite 0x008 v =
      { s with
        done := s.done && !v.getLsbD 1
        err := s.err && !v.getLsbD 2
        errcode := if v.getLsbD 2 then 0 else s.errcode
        errcmd := if v.getLsbD 2 then 0 else s.errcmd
        drop := s.drop && !v.getLsbD 3 } ∧
    State.reset.readValue 0x008 = 0

/-- DROP is set by a CMD write while busy or in error and by an operand-RAM write while busy, cleared by a STATUS write
of bit 3 or a reset, and changed by nothing else (10_state.md R49). -/
def Obligations.DropIsSetByDroppedWritesOnly : Prop :=
  ∀ s : State,
    (∀ (off : Offset) (v : Word), off.toNat % 4 = 0 → ¬IsSoftReset off v →
      ((s.hostWrite off v).drop = true ↔
        (s.drop = true ∧ ¬(off = 0x008 ∧ v.getLsbD 3 = true)) ∨
        (off = 0x00C ∧ (s.busy = true ∨ s.err = true)) ∨ (0x200 ≤ off.toNat ∧ s.busy = true))) ∧
    (∀ v : Word, v.getLsbD 31 = true → (s.hostWrite 0x004 v).drop = false) ∧ s.resetBlock.drop = false ∧
    (∀ off : Offset, (s.hostRead off).drop = s.drop) ∧
    (∀ t, completionStep s = .next t → t.drop = s.drop)

/-- Accept, or drop, of a command word (10_state.md R52). -/
def Obligations.CmdWriteIsAcceptedOrDropped : Prop :=
  ∀ (s : State) (w : Word),
    (s.pending ≠ none ∨ s.err = true →
      s.hostWrite 0x00C w = { s with drop := true, run := { s.run with dropSeen := true } }) ∧
    (s.pending = none → s.err = false → s.hostWrite 0x00C w = { s with pending := some w, done := false }) ∧
    s.readValue 0x00C = 0

/-- A host write of operand RAM stores the value's bytes, little-endian, when idle, and is dropped when busy
(20_memory.md R86). The premise is the canonical form of operand RAM. -/
def Obligations.RamWriteStoresOrDrops : Prop :=
  ∀ (s : State) (k : Nat) (v : Word), k < 128 → Memory.wf s.mem = true →
    (s.pending ≠ none → s.hostWrite (BitVec.ofNat 10 (0x200 + 4 * k)) v =
      { s with drop := true, run := { s.run with dropSeen := true } }) ∧
    (s.pending = none → ∃ m, s.hostWrite (BitVec.ofNat 10 (0x200 + 4 * k)) v = { s with mem := m } ∧
      Memory.wf m = true ∧
      (∀ j, j < 4 → Memory.read m (4 * k + j) = v.extractLsb' (8 * j) 8) ∧
      ∀ a, a < 4 * k ∨ 4 * k + 4 ≤ a → Memory.read m a = Memory.read s.mem a)

/-- An idle host read of operand RAM returns the four bytes packed little-endian, which are bits 32j+31 to 32j of the
slot's integer (20_memory.md R84). -/
def Obligations.RamWordsArePackedLittleEndian : Prop :=
  ∀ (s : State) (i : Fin 16) (j : Nat), j < 8 → s.pending = none →
    (s.readValue (BitVec.ofNat 10 (0x200 + 32 * i.val + 4 * j))).toNat =
      (Memory.read s.mem (32 * i.val + 4 * j)).toNat + 2 ^ 8 * (Memory.read s.mem (32 * i.val + 4 * j + 1)).toNat +
        2 ^ 16 * (Memory.read s.mem (32 * i.val + 4 * j + 2)).toNat +
        2 ^ 24 * (Memory.read s.mem (32 * i.val + 4 * j + 3)).toNat ∧
    (s.readValue (BitVec.ofNat 10 (0x200 + 32 * i.val + 4 * j))).toNat =
      leToNat (s.readSlot i) / 2 ^ (32 * j) % 2 ^ 32

/-- No host read changes the block: the one thing it leaves is the returned value in the run's record (and the count of
free draws). Read again, every offset but operand RAM while busy returns the same value (20_memory.md R87, R89). -/
def Obligations.HostReadsHaveNoSideEffect : Prop :=
  ∀ (s : State) (off : Offset),
    (s.hostRead off).block = s.block ∧ (s.hostRead off).run.reads = s.run.reads ++ [s.readValue off] ∧
    (s.pending = none ∨ off.toNat < 0x200 → (s.hostRead off).readValue off = s.readValue off) ∧
    (s.pending ≠ none → 0x200 ≤ off.toNat → (s.hostRead off).run.draws = s.run.draws + 1)

/-- While a command is pending, no host write but a soft reset changes it, operand RAM, a field register or SK
(20_memory.md R98, 10_state.md R31). -/
def Obligations.PendingCommandIsUndisturbed : Prop :=
  ∀ (s : State) (off : Offset) (v w : Word), s.pending = some w → ¬IsSoftReset off v →
    (s.hostWrite off v).pending = some w ∧ (s.hostWrite off v).mem = s.mem ∧
    (s.hostWrite off v).f = s.f ∧ (s.hostWrite off v).sk = s.sk

/-- Completion is visible: once STATUS reads BUSY = 0 or DONE = 1 no command is in flight, the engine does not move, and
every word of operand RAM reads as its content. The premise is the model's invariant (20_memory.md R95). -/
def Obligations.StatusShowsCompletion : Prop :=
  ∀ s : State, s.Inv → (s.readValue 0x008).getLsbD 0 = false ∨ (s.readValue 0x008).getLsbD 1 = true →
    s.pending = none ∧ s.nextAgent ≠ some .engine ∧
    ∀ k : Fin 128, s.readValue (BitVec.ofNat 10 (0x200 + 4 * k.val)) = Memory.readWord s.mem (4 * k.val)

/-- The block decodes the 1024 addresses from BASE, a multiple of 1024, and no other; a bus access in the window is the
access at its offset (20_memory.md R80). That an access is judged by its start address alone is the model's choice
(log 4, log 14). -/
def Obligations.WindowDecodesItsAddresses : Prop :=
  Config.base % 1024 = 0 ∧
  (∀ off : Offset, windowOffset (Config.base + off.toNat) = some off) ∧
  (∀ addr, addr < Config.base ∨ Config.base + 1024 ≤ addr → windowOffset addr = none) ∧
  ∀ (s : State) (off : Offset) (acc : Access) (ops : List HostOp),
    s.run.program = .bus (Config.base + off.toNat) acc :: ops → s.hostStep = s.accessStep off acc

/-! ### Steps and runs -/

/-- Every reset of the block, hardware or soft, leaves the reset state (10_state.md R60). -/
def Obligations.ResetState : Prop :=
  (∀ s : State, s.resetBlock.block = State.reset.block) ∧
  (∀ (s : State) (v : Word), v.getLsbD 31 = true → (s.hostWrite 0x004 v).block = State.reset.block) ∧
  (∀ i : Fin 16, State.reset.readF i = 0) ∧ (∀ n : Fin 8, State.reset.readP n = ⟨0, 0⟩) ∧
  State.reset.readSk = 0 ∧ (∀ a, Memory.read State.reset.mem a = 0) ∧
  State.reset.ieDone = false ∧ State.reset.ieErr = false ∧
  State.reset.done = false ∧ State.reset.err = false ∧ State.reset.drop = false ∧
  State.reset.inf = false ∧ State.reset.zero = false ∧
  State.reset.errcode = 0 ∧ State.reset.errcmd = 0 ∧
  State.reset.pending = none ∧ State.reset.busy = false ∧
  State.reset.readValue 0x000 = 0x35353258 ∧ State.reset.readValue 0x014 = 1

/-- A hardware reset is a step that can come in every state: the block is in the reset state and a pending command is
abandoned, and the run goes on. That the schedule names it and that the run goes on are the model's choice (log 1,
log 12) (70_reset_and_hazards.md R310). -/
def Obligations.HardwareResetStep : Prop :=
  ∀ (s : State) (rest : List Agent), s.run.refused = false → s.run.schedule = .reset :: rest →
    ∃ t, step s = .next t ∧ t.block = State.reset.block ∧ t.run = { s.run with schedule := rest }

/-- When the engine is the agent to move and the pending word decodes, the step is exec of that command on the state
whose schedule has moved on (10_state.md R53; the schedule is the model's own, log 1). -/
def Obligations.StepRunsTheDecodedCommand : Prop :=
  ∀ (s : State) (w : Word) (i : Instr), s.run.refused = false → s.nextAgent = some .engine →
    s.pending = some w → decode w = .ok i →
    i.wellFormed = true ∧ step s = exec i s.popSchedule ∧ s.popSchedule.block = s.block ∧
    s.popSchedule.run = { s.run with schedule := s.run.schedule.tail }

/-- An access outside the contract is never performed: the step records it and changes nothing of the block, and the
next step is refused (20_memory.md R81, 70_reset_and_hazards.md R336; log 7). -/
def Obligations.NonContractAccessIsRefused : Prop :=
  ∀ (s : State) (off : Offset) (acc : Access) (ops : List HostOp),
    s.run.refused = false → s.nextAgent = some .host → s.run.program = .access off acc :: ops →
    (acc.width ≠ .word ∨ acc.burst = true ∨ off.toNat % 4 ≠ 0) →
    ∃ t, step s = .next t ∧ t.block = s.block ∧ t.run.refused = true ∧
      step t = .refused .nonContractAccess

/-- WAIT_IDLE reads STATUS: while busy it stays the host's next operation, and it is done once BUSY reads 0
(00_scope.md R18, 20_memory.md R95). That each poll is added to the values read is the model's reading of R18 and
70_reset_and_hazards.md R335 (log 13). -/
def Obligations.WaitIdlePollsStatus : Prop :=
  ∀ (s : State) (ops : List HostOp), s.run.program = .waitIdle :: ops →
    s.hostStep.block = s.block ∧ s.hostStep.run.reads = s.run.reads ++ [s.readValue 0x008] ∧
    (s.pending ≠ none → s.hostStep.run.program = .waitIdle :: ops) ∧
    (s.pending = none → s.hostStep.run.program = ops)

/-- The invariant holds at reset (10_state.md R34, R60). -/
def Obligations.ResetMeetsTheInvariant : Prop := State.reset.Inv

/-- Every step keeps the invariant: the field registers stay in [0, p), operand RAM canonical, the error record
faithful, at most one command in flight and none while an error stands, DONE and the run's records truthful
(10_state.md R31, R34, R47, R48, 60_exceptions.md R276). -/
def Obligations.EveryStepKeepsTheInvariant : Prop :=
  ∀ s t : State, s.Inv → step s = .next t → t.Inv

/-- The run's records are never cleared, and values read are only added (70_reset_and_hazards.md R336, R335); that a
reset leaves the values read is the model's choice (log 12). -/
def Obligations.RunRecordsAreNeverCleared : Prop :=
  ∀ s t : State, step s = .next t →
    (s.run.refused = true → t.run.refused = true) ∧ (s.run.errSeen = true → t.run.errSeen = true) ∧
    (s.run.dropSeen = true → t.run.dropSeen = true) ∧ s.run.reads <+: t.run.reads

/-- Every run of a finite host program ends: within as many steps as the schedule is long, two more for each host
operation and one for a pending command, the program is exhausted with no command in flight, unless the host made an
access outside the contract. That a schedule is finite is the model's choice (log 1) (70_reset_and_hazards.md R335). -/
def Obligations.EveryRunEnds : Prop :=
  ∀ s : State, ∃ n, n ≤ s.run.schedule.length + 2 * s.run.program.length + 1 ∧
    ((∃ t, core.run n s = .next t ∧ t.Ended) ∨ core.run n s = .refused .nonContractAccess)
end

