-- ==== Sys2Proof/Laws/Prime.lean ====
section
/-! SUPPORT. p = 2^255 - 19 is prime (00_scope.md R7), by Lucas's criterion with the factors of p - 1, and of each
large factor minus 1, as certificate. -/

namespace Sys2Proof.Machine

/-- Square-and-multiply modulo `m` over bits n-1 to 0 of the exponent. -/
def powBits (m a e : Nat) : Nat → Nat → Nat
  | 0, acc => acc
  | n + 1, acc => powBits m a e n (if e.testBit n then acc * acc % m * a % m else acc * acc % m)

theorem mod_two_pow_succ_eq (e n : Nat) : e % 2 ^ (n + 1) = e % 2 ^ n + 2 ^ n * (e.testBit n).toNat := by
  rw [Nat.mod_pow_succ, Nat.testBit_eq_decide_div_mod_eq]
  rcases Nat.mod_two_eq_zero_or_one (e / 2 ^ n) with h | h <;> simp [h]

theorem powBits_modEq (m a e n acc : Nat) :
    powBits m a e n acc ≡ acc ^ 2 ^ n * a ^ (e % 2 ^ n) [MOD m] := by
  induction n generalizing acc with
  | zero => simp [powBits, Nat.mod_one, Nat.ModEq.refl]
  | succ n ih =>
    have hsq : acc * acc % m ≡ acc ^ 2 [MOD m] := by
      rw [pow_two]
      exact Nat.mod_modEq _ _
    rw [powBits, mod_two_pow_succ_eq]
    refine (ih _).trans ?_
    cases h : e.testBit n with
    | false =>
      simp only [Bool.false_eq_true, if_false, Bool.toNat_false, Nat.mul_zero, Nat.add_zero]
      refine ((hsq.pow _).mul_right _).trans ?_
      rw [← pow_mul, pow_succ, Nat.mul_comm 2]
    | true =>
      simp only [if_true, Bool.toNat_true, Nat.mul_one]
      have hmul : acc * acc % m * a % m ≡ acc ^ 2 * a [MOD m] :=
        (Nat.mod_modEq _ _).trans (hsq.mul_right a)
      refine ((hmul.pow _).mul_right _).trans ?_
      rw [show (acc ^ 2 * a) ^ 2 ^ n * a ^ (e % 2 ^ n) = acc ^ 2 ^ (n + 1) * a ^ (e % 2 ^ n + 2 ^ n) by ring]

theorem powBits_eq {m a e n : Nat} (he : e < 2 ^ n) : powBits m a e n (1 % m) % m = a ^ e % m := by
  have h := powBits_modEq m a e n (1 % m)
  rw [Nat.mod_eq_of_lt he] at h
  have h1 : (1 % m) ^ 2 ^ n ≡ 1 [MOD m] := by simpa using (Nat.mod_modEq 1 m).pow (2 ^ n)
  have h2 := h.trans (h1.mul_right _)
  rwa [one_mul] at h2

/-- Lucas's criterion with the prime factors of n - 1, decided by `powBits`. -/
theorem prime_of_certificate (n a bits : Nat) (factors : List Nat) (hbits : n - 1 < 2 ^ bits)
    (hprod : factors.prod = n - 1) (hprime : ∀ q ∈ factors, q.Prime)
    (h1 : powBits n a (n - 1) bits (1 % n) % n = 1 % n)
    (h2 : factors.all (fun q => powBits n a ((n - 1) / q) bits (1 % n) % n != 1 % n) = true) : n.Prime := by
  have cast (e : Nat) (he : e < 2 ^ bits) :
      (a : ZMod n) ^ e = 1 ↔ powBits n a e bits (1 % n) % n = 1 % n := by
    rw [powBits_eq he, ← Nat.cast_pow]
    rw [show (1 : ZMod n) = ((1 : Nat) : ZMod n) by simp, ZMod.natCast_eq_natCast_iff']
  refine lucas_primality n (a : ZMod n) ((cast _ hbits).2 h1) ?_
  intro q hq hdvd
  rw [← hprod, Prime.dvd_prod_iff hq.prime] at hdvd
  obtain ⟨r, hr, hqr⟩ := hdvd
  have hq' : q = r := (Nat.prime_dvd_prime_iff_eq hq (hprime r hr)).1 hqr
  rw [← hq'] at hr
  have := List.all_eq_true.1 h2 q hr
  simp only [bne_iff_ne, ne_eq] at this
  exact fun h => this ((cast _ (lt_of_le_of_lt (Nat.div_le_self _ _) hbits)).1 h)

theorem prime_2773320623 : Nat.Prime 2773320623 :=
  prime_of_certificate _ 5 32 [2, 2437, 569003] (by decide) (by decide)
    (by simp only [List.forall_mem_cons]; norm_num) (by decide +kernel) (by decide +kernel)

theorem prime_72106336199 : Nat.Prime 72106336199 :=
  prime_of_certificate _ 7 40 [2, 13, 2773320623] (by decide) (by decide)
    (by simp only [List.forall_mem_cons, prime_2773320623]; norm_num) (by decide +kernel) (by decide +kernel)

theorem prime_1919519569386763 : Nat.Prime 1919519569386763 :=
  prime_of_certificate _ 2 56 [2, 3, 7, 19, 47, 47, 127, 8574133] (by decide) (by decide)
    (by simp only [List.forall_mem_cons]; norm_num) (by decide +kernel) (by decide +kernel)

theorem prime_31757755568855353 : Nat.Prime 31757755568855353 :=
  prime_of_certificate _ 10 56 [2, 2, 2, 3, 31, 107, 223, 4153, 430751] (by decide) (by decide)
    (by simp only [List.forall_mem_cons]; norm_num) (by decide +kernel) (by decide +kernel)

theorem prime_75445702479781427272750846543864801 : Nat.Prime 75445702479781427272750846543864801 :=
  prime_of_certificate _ 7 120 [2, 2, 2, 2, 2, 3, 3, 5, 5, 75707, 72106336199, 1919519569386763] (by decide) (by decide)
    (by
      simp only [List.forall_mem_cons, prime_72106336199, prime_1919519569386763]
      norm_num)
    (by decide +kernel) (by decide +kernel)

theorem prime_cofactor :
    Nat.Prime 74058212732561358302231226437062788676166966415465897661863160754340907 :=
  prime_of_certificate _ 2 256
    [2, 3, 353, 57467, 132049, 1923133, 31757755568855353, 75445702479781427272750846543864801]
    (by decide) (by decide)
    (by
      simp only [List.forall_mem_cons, prime_31757755568855353,
        prime_75445702479781427272750846543864801]
      norm_num)
    (by decide +kernel) (by decide +kernel)

/-- p is prime (00_scope.md R7). -/
theorem prime_prime : Nat.Prime prime :=
  prime_of_certificate _ 2 256
    [2, 2, 3, 65147, 74058212732561358302231226437062788676166966415465897661863160754340907]
    (by decide) (by decide)
    (by simp only [List.forall_mem_cons, prime_cofactor]; norm_num)
    (by decide +kernel) (by decide +kernel)

end Sys2Proof.Machine
end

