-- ==== Sys2Proof/Laws/Arith.lean ====
section
/-! SUPPORT. The mathematics of the commands: every operation gives a value in [0, p), square-and-multiply computes
the power it names, and an iteration of the ladder reduces both accumulators (10_state.md R34). -/

namespace Sys2Proof.Machine

theorem prime_pos : 0 < prime := by decide

/-- A field value fits the 255 bits of its register (10_state.md R31). -/
theorem prime_lt_two_pow : prime < 2 ^ 255 := by decide

theorem fadd_lt (a b : Nat) : fadd a b < prime := Nat.mod_lt _ prime_pos

theorem fmul_lt (a b : Nat) : fmul a b < prime := Nat.mod_lt _ prime_pos

theorem fsq_lt (a : Nat) : fsq a < prime := fmul_lt a a

/-- As an integer, `fsub` is the residue of the difference. -/
theorem fsub_cast (a b : Nat) : (fsub a b : Int) = ((a : Int) - b) % prime :=
  Int.toNat_of_nonneg (Int.emod_nonneg _ (by decide))

theorem fsub_lt (a b : Nat) : fsub a b < prime := by
  have h := Int.emod_lt_of_pos ((a : Int) - b) (show (0 : Int) < prime by decide)
  rw [← fsub_cast] at h
  exact_mod_cast h

/-- The loop of `fpow` is square-and-multiply modulo p. -/
theorem fpowBits_eq_powBits (a e n acc : Nat) : fpowBits a e n acc = powBits prime a e n acc := by
  induction n generalizing acc with
  | zero => rfl
  | succ n ih => rw [fpowBits, powBits, ih]; rfl

theorem fpowBits_lt (a e n acc : Nat) (h : acc < prime) : fpowBits a e n acc < prime := by
  induction n generalizing acc with
  | zero => exact h
  | succ n ih =>
    rw [fpowBits]
    split
    · exact ih _ (fmul_lt _ _)
    · exact ih _ (fsq_lt _)

theorem fpow_lt (a e : Nat) : fpow a e < prime := fpowBits_lt _ _ _ _ (by decide)

theorem finv_lt (a : Nat) : finv a < prime := fpow_lt _ _

/-- Both coordinates are in [0, p). -/
def Point.Reduced (q : Point) : Prop := q.x < prime ∧ q.z < prime

theorem dbl_reduced (q : Point) : (dbl q).Reduced := ⟨fmul_lt _ _, fmul_lt _ _⟩

theorem dadd_reduced (q1 q2 d : Point) : (dadd q1 q2 d).Reduced := ⟨fmul_lt _ _, fmul_lt _ _⟩

theorem ladderStep_reduced (b : Bool) (d : Point) (qr : Accumulators) :
    (ladderStep b d qr).q.Reduced ∧ (ladderStep b d qr).r.Reduced := by
  unfold ladderStep
  split
  · exact ⟨dadd_reduced _ _ _, dbl_reduced _⟩
  · exact ⟨dbl_reduced _, dadd_reduced _ _ _⟩

theorem ladderBits_reduced (s : Nat) (d : Point) (n : Nat) (qr : Accumulators) :
    (ladderBits s d (n + 1) qr).q.Reduced ∧ (ladderBits s d (n + 1) qr).r.Reduced := by
  induction n generalizing qr with
  | zero => exact ladderStep_reduced _ _ _
  | succ n ih => exact ih _

theorem scalarMul_reduced (s : Nat) (q : Point) : (scalarMul s q).Reduced :=
  (ladderBits_reduced s q 255 _).1

theorem compressedValue_lt (q : Point) : compressedValue q < prime := by
  unfold compressedValue toCompressed
  split
  · exact prime_pos
  · exact fmul_lt _ _

theorem bytesToField_lt (b : List Byte) : bytesToField b < prime := Nat.mod_lt _ prime_pos

end Sys2Proof.Machine
end

