-- ==== Sys2Proof/Laws/Decode.lean ====
section
/-! SUPPORT. The fields of a packed word, and a word from its fields (30_encoding.md R111, R112). -/

namespace Sys2Proof

section packR

variable (op : BitVec 6) (d a b c : BitVec 4) (rsv : BitVec 10)

theorem packR_toNat : (packR op d a b c rsv).toNat =
    op.toNat * 2 ^ 26 + d.toNat * 2 ^ 22 + a.toNat * 2 ^ 18 + b.toNat * 2 ^ 14 + c.toNat * 2 ^ 10 + rsv.toNat := by
  have h (m n : Nat) (x : BitVec m) (y : BitVec n) : (x ++ y).toNat = x.toNat * 2 ^ n + y.toNat := by
    rw [BitVec.toNat_append, Nat.shiftLeft_eq, Nat.mul_comm, ← Nat.two_pow_add_eq_or_of_lt y.isLt, Nat.mul_comm]
  unfold packR
  rw [h, h, h, h, h]
  ring

@[simp] theorem opField_packR : opField (packR op d a b c rsv) = op := by
  apply BitVec.eq_of_toNat_eq
  rw [opField, BitVec.extractLsb'_toNat, packR_toNat, Nat.shiftRight_eq_div_pow]
  omega

@[simp] theorem dField_packR : dField (packR op d a b c rsv) = d := by
  apply BitVec.eq_of_toNat_eq
  rw [dField, BitVec.extractLsb'_toNat, packR_toNat, Nat.shiftRight_eq_div_pow]
  omega

@[simp] theorem aField_packR : aField (packR op d a b c rsv) = a := by
  apply BitVec.eq_of_toNat_eq
  rw [aField, BitVec.extractLsb'_toNat, packR_toNat, Nat.shiftRight_eq_div_pow]
  omega

@[simp] theorem bField_packR : bField (packR op d a b c rsv) = b := by
  apply BitVec.eq_of_toNat_eq
  rw [bField, BitVec.extractLsb'_toNat, packR_toNat, Nat.shiftRight_eq_div_pow]
  omega

@[simp] theorem cField_packR : cField (packR op d a b c rsv) = c := by
  apply BitVec.eq_of_toNat_eq
  rw [cField, BitVec.extractLsb'_toNat, packR_toNat, Nat.shiftRight_eq_div_pow]
  omega

@[simp] theorem rsvField_packR : rsvField (packR op d a b c rsv) = rsv := by
  apply BitVec.eq_of_toNat_eq
  rw [rsvField, BitVec.extractLsb'_toNat, packR_toNat, Nat.shiftRight_eq_div_pow]
  omega

end packR

/-- A word is its format-R fields, packed. -/
theorem packR_fields (w : Word) :
    packR (opField w) (dField w) (aField w) (bField w) (cField w) (rsvField w) = w := by
  apply BitVec.eq_of_toNat_eq
  rw [packR_toNat]
  simp only [opField, dField, aField, bField, cField, rsvField, BitVec.extractLsb'_toNat, Nat.shiftRight_eq_div_pow]
  omega

section packI

variable (op : BitVec 6) (d : BitVec 4) (imm : Imm22)

theorem packI_toNat : (packI op d imm).toNat = op.toNat * 2 ^ 26 + d.toNat * 2 ^ 22 + imm.toNat := by
  have h (m n : Nat) (x : BitVec m) (y : BitVec n) : (x ++ y).toNat = x.toNat * 2 ^ n + y.toNat := by
    rw [BitVec.toNat_append, Nat.shiftLeft_eq, Nat.mul_comm, ← Nat.two_pow_add_eq_or_of_lt y.isLt, Nat.mul_comm]
  unfold packI
  rw [h, h]
  ring

@[simp] theorem opField_packI : opField (packI op d imm) = op := by
  apply BitVec.eq_of_toNat_eq
  rw [opField, BitVec.extractLsb'_toNat, packI_toNat, Nat.shiftRight_eq_div_pow]
  omega

@[simp] theorem dField_packI : dField (packI op d imm) = d := by
  apply BitVec.eq_of_toNat_eq
  rw [dField, BitVec.extractLsb'_toNat, packI_toNat, Nat.shiftRight_eq_div_pow]
  omega

@[simp] theorem immField_packI : immField (packI op d imm) = imm := by
  apply BitVec.eq_of_toNat_eq
  rw [immField, BitVec.extractLsb'_toNat, packI_toNat, Nat.shiftRight_eq_div_pow]
  omega

end packI

/-- A word is its format-I fields, packed. -/
theorem packI_fields (w : Word) : packI (opField w) (dField w) (immField w) = w := by
  apply BitVec.eq_of_toNat_eq
  rw [packI_toNat]
  simp only [opField, dField, immField, BitVec.extractLsb'_toNat, Nat.shiftRight_eq_div_pow]
  omega

/-- What a format-R check that passes has found (30_encoding.md R117). -/
theorem checkR_ok {w : Word} {unused points : List (BitVec 4)} {i j : Instr} (h : checkR w unused points i = .ok j) :
    j = i ∧ rsvField w = 0 ∧ (∀ u ∈ unused, u = 0) ∧ ∀ q ∈ points, PReg.ok q = true := by
  unfold checkR at h
  split at h
  · cases h
  · rename_i h1
    split at h
    · cases h
    · rename_i h2
      split at h
      · cases h
      · rename_i h3
        cases h
        refine ⟨rfl, by simpa using h1, ?_, by simpa using h3⟩
        simpa using h2

/-- A format-R check passes on a word with reserved bits 0, unused fields 0 and point indices below 8. -/
theorem checkR_pass {w : Word} {unused points : List (BitVec 4)} (i : Instr) (h1 : rsvField w = 0)
    (h2 : ∀ u ∈ unused, u = 0) (h3 : ∀ q ∈ points, PReg.ok q = true) : checkR w unused points i = .ok i := by
  unfold checkR
  rw [if_neg (by simpa using h1), if_neg (by simpa using h2), if_neg (by simpa using h3)]

end Sys2Proof
end

