-- ==== Sys2Proof/Laws/Memory.lean ====
section
/-! SUPPORT. Operand RAM: what a read sees after a write, that every operation keeps the canonical form, and the
correspondence of byte strings, words and integers. -/

namespace Sys2Proof.Machine

/-! ### One byte -/

theorem Memory.wfFrom_mono {m : Memory} {lo lo' : Nat} (h : lo' ≤ lo) (hm : Memory.wfFrom lo m = true) :
    Memory.wfFrom lo' m = true := by
  cases m with
  | nil => rfl
  | cons c m =>
    simp only [Memory.wfFrom, Bool.and_eq_true, decide_eq_true_eq] at hm ⊢
    exact ⟨⟨⟨by omega, hm.1.1.2⟩, hm.1.2⟩, hm.2⟩

/-- Below its first listed address, memory reads as nothing was written. -/
theorem Memory.read_below {m : Memory} {lo a : Nat} (hm : Memory.wfFrom lo m = true) (ha : a < lo) :
    Memory.read m a = Memory.unlisted := by
  induction m generalizing lo with
  | nil => rfl
  | cons c m ih =>
    simp only [Memory.wfFrom, Bool.and_eq_true, decide_eq_true_eq] at hm
    rw [Memory.read, if_neg (by omega)]
    exact ih hm.2 (by omega)

theorem Memory.wfFrom_write {m : Memory} {lo a : Nat} {b : Byte} (hm : Memory.wfFrom lo m = true) (hlo : lo ≤ a)
    (ha : a < Memory.size) : Memory.wfFrom lo (Memory.write m a b) = true := by
  induction m generalizing lo with
  | nil =>
    unfold Memory.write
    split <;> simp_all [Memory.wfFrom]
  | cons c m ih =>
    obtain ⟨a', b'⟩ := c
    have hm' := hm
    simp only [Memory.wfFrom, Bool.and_eq_true, decide_eq_true_eq] at hm
    obtain ⟨⟨⟨h1, h2⟩, h3⟩, h4⟩ := hm
    unfold Memory.write
    split
    · split
      · exact hm'
      · simp_all [Memory.wfFrom]
    · split
      · subst a'
        split
        · exact Memory.wfFrom_mono (by omega) h4
        · simp_all [Memory.wfFrom]
      · simp only [Memory.wfFrom, Bool.and_eq_true, decide_eq_true_eq]
        exact ⟨⟨⟨h1, h2⟩, h3⟩, ih h4 (by omega)⟩

/-- A write keeps the canonical form. -/
theorem Memory.wf_write {m : Memory} {a : Nat} {b : Byte} (hm : Memory.wf m = true) (ha : a < Memory.size) :
    Memory.wf (Memory.write m a b) = true :=
  Memory.wfFrom_write hm (Nat.zero_le a) ha

theorem Memory.read_write_from {m : Memory} {lo : Nat} (hm : Memory.wfFrom lo m = true) (a a' : Nat) (b : Byte) :
    Memory.read (Memory.write m a b) a' = if a' = a then b else Memory.read m a' := by
  induction m generalizing lo with
  | nil =>
    unfold Memory.write
    split <;> split <;> simp_all [Memory.read]
  | cons c m ih =>
    obtain ⟨a₁, b₁⟩ := c
    have hm' := hm
    simp only [Memory.wfFrom, Bool.and_eq_true, decide_eq_true_eq] at hm
    unfold Memory.write
    by_cases h1 : a < a₁
    · rw [if_pos h1]
      have below : Memory.read ((a₁, b₁) :: m) a = Memory.unlisted := by
        rw [Memory.read, if_neg (by omega)]
        exact Memory.read_below hm.2 (by omega)
      by_cases hb : b = Memory.unlisted
      · rw [if_pos hb]
        split
        · subst_vars
          exact below
        · rfl
      · rw [if_neg hb, Memory.read]
    · rw [if_neg h1]
      by_cases h2 : a = a₁
      · subst h2
        rw [if_pos rfl]
        by_cases hb : b = Memory.unlisted
        · rw [if_pos hb]
          by_cases h3 : a' = a
          · subst h3 hb
            rw [if_pos rfl]
            exact Memory.read_below hm.2 (by omega)
          · rw [if_neg h3, Memory.read, if_neg h3]
        · rw [if_neg hb, Memory.read]
          by_cases h3 : a' = a <;> simp [h3, Memory.read]
      · rw [if_neg h2, Memory.read, ih hm.2]
        by_cases h3 : a' = a₁
        · rw [if_pos h3, if_neg (by omega), Memory.read, if_pos h3]
        · rw [if_neg h3, Memory.read, if_neg h3]

/-- A read after a write: the written byte at its own address, every other byte as before. -/
theorem Memory.read_write {m : Memory} (hm : Memory.wf m = true) (a a' : Nat) (b : Byte) :
    Memory.read (Memory.write m a b) a' = if a' = a then b else Memory.read m a' :=
  Memory.read_write_from hm a a' b

/-! ### Byte strings -/

@[simp] theorem Memory.readBytes_length (m : Memory) (a n : Nat) : (Memory.readBytes m a n).length = n := by
  induction n generalizing a with
  | zero => rfl
  | succ n ih => simp [Memory.readBytes, ih]

theorem Memory.readBytes_getElem (m : Memory) (a n k : Nat) (h : k < (Memory.readBytes m a n).length) :
    (Memory.readBytes m a n)[k] = Memory.read m (a + k) := by
  induction n generalizing a k with
  | zero => simp [Memory.readBytes] at h
  | succ n ih =>
    cases k with
    | zero => rfl
    | succ k =>
      simp only [Memory.readBytes, List.getElem_cons_succ, ih]
      congr 1
      omega

theorem Memory.wf_writeBytes {m : Memory} {a : Nat} {bs : List Byte} (hm : Memory.wf m = true)
    (ha : a + bs.length ≤ Memory.size) : Memory.wf (Memory.writeBytes m a bs) = true := by
  induction bs generalizing m a with
  | nil => exact hm
  | cons b bs ih =>
    simp only [List.length_cons] at ha
    exact ih (Memory.wf_write hm (by omega)) (by omega)

theorem Memory.read_writeBytes {m : Memory} {a : Nat} {bs : List Byte} (hm : Memory.wf m = true)
    (ha : a + bs.length ≤ Memory.size) (a' : Nat) :
    Memory.read (Memory.writeBytes m a bs) a' =
      if a ≤ a' ∧ a' < a + bs.length then bs.getD (a' - a) 0 else Memory.read m a' := by
  induction bs generalizing m a with
  | nil =>
    rw [Memory.writeBytes, if_neg (by simp only [List.length_nil]; omega)]
  | cons b bs ih =>
    simp only [List.length_cons] at ha ⊢
    rw [Memory.writeBytes, ih (Memory.wf_write hm (by omega)) (by omega), Memory.read_write hm]
    by_cases h : a' = a
    · subst h
      simp
    · by_cases h2 : a + 1 ≤ a' ∧ a' < a + 1 + bs.length
      · have h3 : a' - a = (a' - (a + 1)) + 1 := by omega
        rw [if_pos h2, if_pos (by omega), h3, List.getD_cons_succ]
      · rw [if_neg h2, if_neg h, if_neg (by omega)]

/-- The bytes just written are read back. -/
theorem Memory.readBytes_writeBytes_same {m : Memory} {a : Nat} {bs : List Byte} (hm : Memory.wf m = true)
    (ha : a + bs.length ≤ Memory.size) :
    Memory.readBytes (Memory.writeBytes m a bs) a bs.length = bs := by
  apply List.ext_getElem (by simp)
  intro k h1 h2
  rw [Memory.readBytes_getElem, Memory.read_writeBytes hm ha, if_pos (by omega)]
  simp [h2]

/-- Bytes outside the written ones are read as before. -/
theorem Memory.readBytes_writeBytes_other {m : Memory} {a a' n : Nat} {bs : List Byte} (hm : Memory.wf m = true)
    (ha : a + bs.length ≤ Memory.size) (h : a' + n ≤ a ∨ a + bs.length ≤ a') :
    Memory.readBytes (Memory.writeBytes m a bs) a' n = Memory.readBytes m a' n := by
  apply List.ext_getElem (by simp)
  intro k h1 h2
  simp only [Memory.readBytes_length] at h1
  rw [Memory.readBytes_getElem, Memory.readBytes_getElem, Memory.read_writeBytes hm ha, if_neg (by omega)]

@[simp] theorem wordBytes_length (v : Word) : (wordBytes v).length = 4 := rfl

/-! ### Integers -/

@[simp] theorem natToLe_length (n v : Nat) : (natToLe n v).length = n := by
  induction n generalizing v with
  | zero => rfl
  | succ n ih => simp [natToLe, ih]

@[simp] theorem le32_length (v : Nat) : (le32 v).length = 32 := natToLe_length 32 v

@[simp] theorem fieldToBytes_length (v : Nat) : (fieldToBytes v).length = 32 := natToLe_length 32 v

theorem leToNat_lt (bs : List Byte) : leToNat bs < 256 ^ bs.length := by
  induction bs with
  | nil => decide
  | cons b bs ih =>
    have hb := b.isLt
    simp only [leToNat, List.length_cons, Nat.pow_succ] at ih ⊢
    omega

theorem leToNat_natToLe (n v : Nat) : leToNat (natToLe n v) = v % 256 ^ n := by
  induction n generalizing v with
  | zero => simp [natToLe, leToNat, Nat.mod_one]
  | succ n ih =>
    have h : (256 : Nat) ^ (n + 1) = 256 * 256 ^ n := by rw [Nat.pow_succ, Nat.mul_comm]
    rw [natToLe, leToNat, ih, BitVec.toNat_ofNat, h, Nat.mod_mul]

theorem natToLe_leToNat (bs : List Byte) : natToLe bs.length (leToNat bs) = bs := by
  induction bs with
  | nil => rfl
  | cons b bs ih =>
    have hb := b.isLt
    have h1 : (b.toNat + 256 * leToNat bs) / 256 = leToNat bs := by omega
    have h2 : BitVec.ofNat 8 (b.toNat + 256 * leToNat bs) = b := by
      apply BitVec.eq_of_toNat_eq
      rw [BitVec.toNat_ofNat]
      omega
    rw [leToNat, List.length_cons, natToLe, h1, h2, ih]

end Sys2Proof.Machine
end

