-- ==== Sys2Proof/Laws/State.lean ====
section
/-! SUPPORT. What each named update of the state does to each field, and to each view of a field that it leaves
alone; every lemma holds by unfolding, so that no later proof unfolds a record update. -/

namespace Sys2Proof.Machine

variable (s : State)

/-! ### The operand forms are the operations on the index they name -/

@[simp] theorem srcF_eq (r : FReg) : s.srcF r = s.readF (fIndex r) := rfl
@[simp] theorem srcP_eq (r : PReg) : s.srcP r = s.readP (pIndex r) := rfl
@[simp] theorem srcS_eq (r : Slot) : s.srcS r = s.readSlot (sIndex r) := rfl
@[simp] theorem dstF_eq (r : FReg) (v : Nat) : s.dstF r v = s.writeF (fIndex r) v := rfl
@[simp] theorem dstP_eq (r : PReg) (q : Point) : s.dstP r q = s.writeP (pIndex r) q := rfl
@[simp] theorem dstS_eq (r : Slot) (b : List Byte) : s.dstS r b = s.writeSlot (sIndex r) b := rfl
@[simp] theorem complete_eq : complete s = .next s.finish := rfl
@[simp] theorem raise_eq (e : ErrorCause) (w : Word) : raise e w s = .next (s.recordError e w).finish := rfl


/-! ### writeF -/

@[simp] theorem writeF_f (i : Fin 16) (v : Nat) : (s.writeF i v).f = s.f.set i (BitVec.ofNat 255 v) := rfl
@[simp] theorem writeF_sk (i : Fin 16) (v : Nat) : (s.writeF i v).sk = s.sk := rfl
@[simp] theorem writeF_mem (i : Fin 16) (v : Nat) : (s.writeF i v).mem = s.mem := rfl
@[simp] theorem writeF_ieDone (i : Fin 16) (v : Nat) : (s.writeF i v).ieDone = s.ieDone := rfl
@[simp] theorem writeF_ieErr (i : Fin 16) (v : Nat) : (s.writeF i v).ieErr = s.ieErr := rfl
@[simp] theorem writeF_done (i : Fin 16) (v : Nat) : (s.writeF i v).done = s.done := rfl
@[simp] theorem writeF_err (i : Fin 16) (v : Nat) : (s.writeF i v).err = s.err := rfl
@[simp] theorem writeF_drop (i : Fin 16) (v : Nat) : (s.writeF i v).drop = s.drop := rfl
@[simp] theorem writeF_inf (i : Fin 16) (v : Nat) : (s.writeF i v).inf = s.inf := rfl
@[simp] theorem writeF_zero (i : Fin 16) (v : Nat) : (s.writeF i v).zero = s.zero := rfl
@[simp] theorem writeF_errcode (i : Fin 16) (v : Nat) : (s.writeF i v).errcode = s.errcode := rfl
@[simp] theorem writeF_errcmd (i : Fin 16) (v : Nat) : (s.writeF i v).errcmd = s.errcmd := rfl
@[simp] theorem writeF_pending (i : Fin 16) (v : Nat) : (s.writeF i v).pending = s.pending := rfl
@[simp] theorem writeF_run (i : Fin 16) (v : Nat) : (s.writeF i v).run = s.run := rfl
@[simp] theorem writeF_readSk (i : Fin 16) (v : Nat) : (s.writeF i v).readSk = s.readSk := rfl
@[simp] theorem writeF_readSlot (i : Fin 16) (v : Nat) (j : Fin 16) : (s.writeF i v).readSlot j = s.readSlot j := rfl
@[simp] theorem writeF_busy (i : Fin 16) (v : Nat) : (s.writeF i v).busy = s.busy := rfl
@[simp] theorem writeF_pendingWord (i : Fin 16) (v : Nat) : (s.writeF i v).pendingWord = s.pendingWord := rfl

/-! ### writeP -/

@[simp] theorem writeP_f (k : Fin 8) (q : Point) : (s.writeP k q).f = (s.f.set (pointX k) (BitVec.ofNat 255 q.x)).set (pointZ k) (BitVec.ofNat 255 q.z) := rfl
@[simp] theorem writeP_sk (k : Fin 8) (q : Point) : (s.writeP k q).sk = s.sk := rfl
@[simp] theorem writeP_mem (k : Fin 8) (q : Point) : (s.writeP k q).mem = s.mem := rfl
@[simp] theorem writeP_ieDone (k : Fin 8) (q : Point) : (s.writeP k q).ieDone = s.ieDone := rfl
@[simp] theorem writeP_ieErr (k : Fin 8) (q : Point) : (s.writeP k q).ieErr = s.ieErr := rfl
@[simp] theorem writeP_done (k : Fin 8) (q : Point) : (s.writeP k q).done = s.done := rfl
@[simp] theorem writeP_err (k : Fin 8) (q : Point) : (s.writeP k q).err = s.err := rfl
@[simp] theorem writeP_drop (k : Fin 8) (q : Point) : (s.writeP k q).drop = s.drop := rfl
@[simp] theorem writeP_inf (k : Fin 8) (q : Point) : (s.writeP k q).inf = s.inf := rfl
@[simp] theorem writeP_zero (k : Fin 8) (q : Point) : (s.writeP k q).zero = s.zero := rfl
@[simp] theorem writeP_errcode (k : Fin 8) (q : Point) : (s.writeP k q).errcode = s.errcode := rfl
@[simp] theorem writeP_errcmd (k : Fin 8) (q : Point) : (s.writeP k q).errcmd = s.errcmd := rfl
@[simp] theorem writeP_pending (k : Fin 8) (q : Point) : (s.writeP k q).pending = s.pending := rfl
@[simp] theorem writeP_run (k : Fin 8) (q : Point) : (s.writeP k q).run = s.run := rfl
@[simp] theorem writeP_readSk (k : Fin 8) (q : Point) : (s.writeP k q).readSk = s.readSk := rfl
@[simp] theorem writeP_readSlot (k : Fin 8) (q : Point) (j : Fin 16) : (s.writeP k q).readSlot j = s.readSlot j := rfl
@[simp] theorem writeP_busy (k : Fin 8) (q : Point) : (s.writeP k q).busy = s.busy := rfl
@[simp] theorem writeP_pendingWord (k : Fin 8) (q : Point) : (s.writeP k q).pendingWord = s.pendingWord := rfl

/-! ### writeSk -/

@[simp] theorem writeSk_f (v : Nat) : (s.writeSk v).f = s.f := rfl
@[simp] theorem writeSk_sk (v : Nat) : (s.writeSk v).sk = BitVec.ofNat 256 v := rfl
@[simp] theorem writeSk_mem (v : Nat) : (s.writeSk v).mem = s.mem := rfl
@[simp] theorem writeSk_ieDone (v : Nat) : (s.writeSk v).ieDone = s.ieDone := rfl
@[simp] theorem writeSk_ieErr (v : Nat) : (s.writeSk v).ieErr = s.ieErr := rfl
@[simp] theorem writeSk_done (v : Nat) : (s.writeSk v).done = s.done := rfl
@[simp] theorem writeSk_err (v : Nat) : (s.writeSk v).err = s.err := rfl
@[simp] theorem writeSk_drop (v : Nat) : (s.writeSk v).drop = s.drop := rfl
@[simp] theorem writeSk_inf (v : Nat) : (s.writeSk v).inf = s.inf := rfl
@[simp] theorem writeSk_zero (v : Nat) : (s.writeSk v).zero = s.zero := rfl
@[simp] theorem writeSk_errcode (v : Nat) : (s.writeSk v).errcode = s.errcode := rfl
@[simp] theorem writeSk_errcmd (v : Nat) : (s.writeSk v).errcmd = s.errcmd := rfl
@[simp] theorem writeSk_pending (v : Nat) : (s.writeSk v).pending = s.pending := rfl
@[simp] theorem writeSk_run (v : Nat) : (s.writeSk v).run = s.run := rfl
@[simp] theorem writeSk_readF (v : Nat) (j : Fin 16) : (s.writeSk v).readF j = s.readF j := rfl
@[simp] theorem writeSk_readP (v : Nat) (n : Fin 8) : (s.writeSk v).readP n = s.readP n := rfl
@[simp] theorem writeSk_readSlot (v : Nat) (j : Fin 16) : (s.writeSk v).readSlot j = s.readSlot j := rfl
@[simp] theorem writeSk_busy (v : Nat) : (s.writeSk v).busy = s.busy := rfl
@[simp] theorem writeSk_pendingWord (v : Nat) : (s.writeSk v).pendingWord = s.pendingWord := rfl

/-! ### writeSlot -/

@[simp] theorem writeSlot_f (i : Fin 16) (b : List Byte) : (s.writeSlot i b).f = s.f := rfl
@[simp] theorem writeSlot_sk (i : Fin 16) (b : List Byte) : (s.writeSlot i b).sk = s.sk := rfl
@[simp] theorem writeSlot_mem (i : Fin 16) (b : List Byte) : (s.writeSlot i b).mem = Memory.writeBytes s.mem (32 * i.val) b := rfl
@[simp] theorem writeSlot_ieDone (i : Fin 16) (b : List Byte) : (s.writeSlot i b).ieDone = s.ieDone := rfl
@[simp] theorem writeSlot_ieErr (i : Fin 16) (b : List Byte) : (s.writeSlot i b).ieErr = s.ieErr := rfl
@[simp] theorem writeSlot_done (i : Fin 16) (b : List Byte) : (s.writeSlot i b).done = s.done := rfl
@[simp] theorem writeSlot_err (i : Fin 16) (b : List Byte) : (s.writeSlot i b).err = s.err := rfl
@[simp] theorem writeSlot_drop (i : Fin 16) (b : List Byte) : (s.writeSlot i b).drop = s.drop := rfl
@[simp] theorem writeSlot_inf (i : Fin 16) (b : List Byte) : (s.writeSlot i b).inf = s.inf := rfl
@[simp] theorem writeSlot_zero (i : Fin 16) (b : List Byte) : (s.writeSlot i b).zero = s.zero := rfl
@[simp] theorem writeSlot_errcode (i : Fin 16) (b : List Byte) : (s.writeSlot i b).errcode = s.errcode := rfl
@[simp] theorem writeSlot_errcmd (i : Fin 16) (b : List Byte) : (s.writeSlot i b).errcmd = s.errcmd := rfl
@[simp] theorem writeSlot_pending (i : Fin 16) (b : List Byte) : (s.writeSlot i b).pending = s.pending := rfl
@[simp] theorem writeSlot_run (i : Fin 16) (b : List Byte) : (s.writeSlot i b).run = s.run := rfl
@[simp] theorem writeSlot_readF (i : Fin 16) (b : List Byte) (j : Fin 16) : (s.writeSlot i b).readF j = s.readF j := rfl
@[simp] theorem writeSlot_readP (i : Fin 16) (b : List Byte) (n : Fin 8) : (s.writeSlot i b).readP n = s.readP n := rfl
@[simp] theorem writeSlot_readSk (i : Fin 16) (b : List Byte) : (s.writeSlot i b).readSk = s.readSk := rfl
@[simp] theorem writeSlot_busy (i : Fin 16) (b : List Byte) : (s.writeSlot i b).busy = s.busy := rfl
@[simp] theorem writeSlot_pendingWord (i : Fin 16) (b : List Byte) : (s.writeSlot i b).pendingWord = s.pendingWord := rfl

/-! ### finish -/

@[simp] theorem finish_f : (s.finish).f = s.f := rfl
@[simp] theorem finish_sk : (s.finish).sk = s.sk := rfl
@[simp] theorem finish_mem : (s.finish).mem = s.mem := rfl
@[simp] theorem finish_ieDone : (s.finish).ieDone = s.ieDone := rfl
@[simp] theorem finish_ieErr : (s.finish).ieErr = s.ieErr := rfl
@[simp] theorem finish_done : (s.finish).done = true := rfl
@[simp] theorem finish_err : (s.finish).err = s.err := rfl
@[simp] theorem finish_drop : (s.finish).drop = s.drop := rfl
@[simp] theorem finish_inf : (s.finish).inf = s.inf := rfl
@[simp] theorem finish_zero : (s.finish).zero = s.zero := rfl
@[simp] theorem finish_errcode : (s.finish).errcode = s.errcode := rfl
@[simp] theorem finish_errcmd : (s.finish).errcmd = s.errcmd := rfl
@[simp] theorem finish_pending : (s.finish).pending = none := rfl
@[simp] theorem finish_run : (s.finish).run = s.run := rfl
@[simp] theorem finish_readF (j : Fin 16) : (s.finish).readF j = s.readF j := rfl
@[simp] theorem finish_readP (n : Fin 8) : (s.finish).readP n = s.readP n := rfl
@[simp] theorem finish_readSk : (s.finish).readSk = s.readSk := rfl
@[simp] theorem finish_readSlot (j : Fin 16) : (s.finish).readSlot j = s.readSlot j := rfl

/-! ### recordError -/

@[simp] theorem recordError_f (e : ErrorCause) (w : Word) : (s.recordError e w).f = s.f := rfl
@[simp] theorem recordError_sk (e : ErrorCause) (w : Word) : (s.recordError e w).sk = s.sk := rfl
@[simp] theorem recordError_mem (e : ErrorCause) (w : Word) : (s.recordError e w).mem = s.mem := rfl
@[simp] theorem recordError_ieDone (e : ErrorCause) (w : Word) : (s.recordError e w).ieDone = s.ieDone := rfl
@[simp] theorem recordError_ieErr (e : ErrorCause) (w : Word) : (s.recordError e w).ieErr = s.ieErr := rfl
@[simp] theorem recordError_done (e : ErrorCause) (w : Word) : (s.recordError e w).done = s.done := rfl
@[simp] theorem recordError_err (e : ErrorCause) (w : Word) : (s.recordError e w).err = true := rfl
@[simp] theorem recordError_drop (e : ErrorCause) (w : Word) : (s.recordError e w).drop = s.drop := rfl
@[simp] theorem recordError_inf (e : ErrorCause) (w : Word) : (s.recordError e w).inf = s.inf := rfl
@[simp] theorem recordError_zero (e : ErrorCause) (w : Word) : (s.recordError e w).zero = s.zero := rfl
@[simp] theorem recordError_errcode (e : ErrorCause) (w : Word) : (s.recordError e w).errcode = errorCode e := rfl
@[simp] theorem recordError_errcmd (e : ErrorCause) (w : Word) : (s.recordError e w).errcmd = w := rfl
@[simp] theorem recordError_pending (e : ErrorCause) (w : Word) : (s.recordError e w).pending = s.pending := rfl
@[simp] theorem recordError_run_program (e : ErrorCause) (w : Word) : (s.recordError e w).run.program = s.run.program := rfl
@[simp] theorem recordError_run_schedule (e : ErrorCause) (w : Word) : (s.recordError e w).run.schedule = s.run.schedule := rfl
@[simp] theorem recordError_run_reads (e : ErrorCause) (w : Word) : (s.recordError e w).run.reads = s.run.reads := rfl
@[simp] theorem recordError_run_draws (e : ErrorCause) (w : Word) : (s.recordError e w).run.draws = s.run.draws := rfl
@[simp] theorem recordError_run_refused (e : ErrorCause) (w : Word) : (s.recordError e w).run.refused = s.run.refused := rfl
@[simp] theorem recordError_run_errSeen (e : ErrorCause) (w : Word) : (s.recordError e w).run.errSeen = true := rfl
@[simp] theorem recordError_run_dropSeen (e : ErrorCause) (w : Word) : (s.recordError e w).run.dropSeen = s.run.dropSeen := rfl
@[simp] theorem recordError_readF (e : ErrorCause) (w : Word) (j : Fin 16) : (s.recordError e w).readF j = s.readF j := rfl
@[simp] theorem recordError_readP (e : ErrorCause) (w : Word) (n : Fin 8) : (s.recordError e w).readP n = s.readP n := rfl
@[simp] theorem recordError_readSk (e : ErrorCause) (w : Word) : (s.recordError e w).readSk = s.readSk := rfl
@[simp] theorem recordError_readSlot (e : ErrorCause) (w : Word) (j : Fin 16) : (s.recordError e w).readSlot j = s.readSlot j := rfl
@[simp] theorem recordError_busy (e : ErrorCause) (w : Word) : (s.recordError e w).busy = s.busy := rfl
@[simp] theorem recordError_pendingWord (e : ErrorCause) (w : Word) : (s.recordError e w).pendingWord = s.pendingWord := rfl

/-! ### resetBlock -/

@[simp] theorem resetBlock_f : (s.resetBlock).f = State.reset.f := rfl
@[simp] theorem resetBlock_sk : (s.resetBlock).sk = State.reset.sk := rfl
@[simp] theorem resetBlock_mem : (s.resetBlock).mem = State.reset.mem := rfl
@[simp] theorem resetBlock_ieDone : (s.resetBlock).ieDone = State.reset.ieDone := rfl
@[simp] theorem resetBlock_ieErr : (s.resetBlock).ieErr = State.reset.ieErr := rfl
@[simp] theorem resetBlock_done : (s.resetBlock).done = State.reset.done := rfl
@[simp] theorem resetBlock_err : (s.resetBlock).err = State.reset.err := rfl
@[simp] theorem resetBlock_drop : (s.resetBlock).drop = State.reset.drop := rfl
@[simp] theorem resetBlock_inf : (s.resetBlock).inf = State.reset.inf := rfl
@[simp] theorem resetBlock_zero : (s.resetBlock).zero = State.reset.zero := rfl
@[simp] theorem resetBlock_errcode : (s.resetBlock).errcode = State.reset.errcode := rfl
@[simp] theorem resetBlock_errcmd : (s.resetBlock).errcmd = State.reset.errcmd := rfl
@[simp] theorem resetBlock_pending : (s.resetBlock).pending = State.reset.pending := rfl
@[simp] theorem resetBlock_run : (s.resetBlock).run = s.run := rfl

/-! ### dropWrite -/

@[simp] theorem dropWrite_f : (s.dropWrite).f = s.f := rfl
@[simp] theorem dropWrite_sk : (s.dropWrite).sk = s.sk := rfl
@[simp] theorem dropWrite_mem : (s.dropWrite).mem = s.mem := rfl
@[simp] theorem dropWrite_ieDone : (s.dropWrite).ieDone = s.ieDone := rfl
@[simp] theorem dropWrite_ieErr : (s.dropWrite).ieErr = s.ieErr := rfl
@[simp] theorem dropWrite_done : (s.dropWrite).done = s.done := rfl
@[simp] theorem dropWrite_err : (s.dropWrite).err = s.err := rfl
@[simp] theorem dropWrite_drop : (s.dropWrite).drop = true := rfl
@[simp] theorem dropWrite_inf : (s.dropWrite).inf = s.inf := rfl
@[simp] theorem dropWrite_zero : (s.dropWrite).zero = s.zero := rfl
@[simp] theorem dropWrite_errcode : (s.dropWrite).errcode = s.errcode := rfl
@[simp] theorem dropWrite_errcmd : (s.dropWrite).errcmd = s.errcmd := rfl
@[simp] theorem dropWrite_pending : (s.dropWrite).pending = s.pending := rfl
@[simp] theorem dropWrite_run_program : (s.dropWrite).run.program = s.run.program := rfl
@[simp] theorem dropWrite_run_schedule : (s.dropWrite).run.schedule = s.run.schedule := rfl
@[simp] theorem dropWrite_run_reads : (s.dropWrite).run.reads = s.run.reads := rfl
@[simp] theorem dropWrite_run_draws : (s.dropWrite).run.draws = s.run.draws := rfl
@[simp] theorem dropWrite_run_refused : (s.dropWrite).run.refused = s.run.refused := rfl
@[simp] theorem dropWrite_run_errSeen : (s.dropWrite).run.errSeen = s.run.errSeen := rfl
@[simp] theorem dropWrite_run_dropSeen : (s.dropWrite).run.dropSeen = true := rfl
@[simp] theorem dropWrite_readF (j : Fin 16) : (s.dropWrite).readF j = s.readF j := rfl
@[simp] theorem dropWrite_readP (n : Fin 8) : (s.dropWrite).readP n = s.readP n := rfl
@[simp] theorem dropWrite_readSk : (s.dropWrite).readSk = s.readSk := rfl
@[simp] theorem dropWrite_readSlot (j : Fin 16) : (s.dropWrite).readSlot j = s.readSlot j := rfl
@[simp] theorem dropWrite_busy : (s.dropWrite).busy = s.busy := rfl
@[simp] theorem dropWrite_pendingWord : (s.dropWrite).pendingWord = s.pendingWord := rfl

/-! ### recordRead -/

@[simp] theorem recordRead_f (v : Word) : (s.recordRead v).f = s.f := rfl
@[simp] theorem recordRead_sk (v : Word) : (s.recordRead v).sk = s.sk := rfl
@[simp] theorem recordRead_mem (v : Word) : (s.recordRead v).mem = s.mem := rfl
@[simp] theorem recordRead_ieDone (v : Word) : (s.recordRead v).ieDone = s.ieDone := rfl
@[simp] theorem recordRead_ieErr (v : Word) : (s.recordRead v).ieErr = s.ieErr := rfl
@[simp] theorem recordRead_done (v : Word) : (s.recordRead v).done = s.done := rfl
@[simp] theorem recordRead_err (v : Word) : (s.recordRead v).err = s.err := rfl
@[simp] theorem recordRead_drop (v : Word) : (s.recordRead v).drop = s.drop := rfl
@[simp] theorem recordRead_inf (v : Word) : (s.recordRead v).inf = s.inf := rfl
@[simp] theorem recordRead_zero (v : Word) : (s.recordRead v).zero = s.zero := rfl
@[simp] theorem recordRead_errcode (v : Word) : (s.recordRead v).errcode = s.errcode := rfl
@[simp] theorem recordRead_errcmd (v : Word) : (s.recordRead v).errcmd = s.errcmd := rfl
@[simp] theorem recordRead_pending (v : Word) : (s.recordRead v).pending = s.pending := rfl
@[simp] theorem recordRead_run_program (v : Word) : (s.recordRead v).run.program = s.run.program := rfl
@[simp] theorem recordRead_run_schedule (v : Word) : (s.recordRead v).run.schedule = s.run.schedule := rfl
@[simp] theorem recordRead_run_reads (v : Word) : (s.recordRead v).run.reads = s.run.reads ++ [v] := rfl
@[simp] theorem recordRead_run_draws (v : Word) : (s.recordRead v).run.draws = s.run.draws := rfl
@[simp] theorem recordRead_run_refused (v : Word) : (s.recordRead v).run.refused = s.run.refused := rfl
@[simp] theorem recordRead_run_errSeen (v : Word) : (s.recordRead v).run.errSeen = s.run.errSeen := rfl
@[simp] theorem recordRead_run_dropSeen (v : Word) : (s.recordRead v).run.dropSeen = s.run.dropSeen := rfl
@[simp] theorem recordRead_readF (v : Word) (j : Fin 16) : (s.recordRead v).readF j = s.readF j := rfl
@[simp] theorem recordRead_readP (v : Word) (n : Fin 8) : (s.recordRead v).readP n = s.readP n := rfl
@[simp] theorem recordRead_readSk (v : Word) : (s.recordRead v).readSk = s.readSk := rfl
@[simp] theorem recordRead_readSlot (v : Word) (j : Fin 16) : (s.recordRead v).readSlot j = s.readSlot j := rfl
@[simp] theorem recordRead_busy (v : Word) : (s.recordRead v).busy = s.busy := rfl
@[simp] theorem recordRead_pendingWord (v : Word) : (s.recordRead v).pendingWord = s.pendingWord := rfl

/-! ### countDraw -/

@[simp] theorem countDraw_f : (s.countDraw).f = s.f := rfl
@[simp] theorem countDraw_sk : (s.countDraw).sk = s.sk := rfl
@[simp] theorem countDraw_mem : (s.countDraw).mem = s.mem := rfl
@[simp] theorem countDraw_ieDone : (s.countDraw).ieDone = s.ieDone := rfl
@[simp] theorem countDraw_ieErr : (s.countDraw).ieErr = s.ieErr := rfl
@[simp] theorem countDraw_done : (s.countDraw).done = s.done := rfl
@[simp] theorem countDraw_err : (s.countDraw).err = s.err := rfl
@[simp] theorem countDraw_drop : (s.countDraw).drop = s.drop := rfl
@[simp] theorem countDraw_inf : (s.countDraw).inf = s.inf := rfl
@[simp] theorem countDraw_zero : (s.countDraw).zero = s.zero := rfl
@[simp] theorem countDraw_errcode : (s.countDraw).errcode = s.errcode := rfl
@[simp] theorem countDraw_errcmd : (s.countDraw).errcmd = s.errcmd := rfl
@[simp] theorem countDraw_pending : (s.countDraw).pending = s.pending := rfl
@[simp] theorem countDraw_run_program : (s.countDraw).run.program = s.run.program := rfl
@[simp] theorem countDraw_run_schedule : (s.countDraw).run.schedule = s.run.schedule := rfl
@[simp] theorem countDraw_run_reads : (s.countDraw).run.reads = s.run.reads := rfl
@[simp] theorem countDraw_run_draws : (s.countDraw).run.draws = s.run.draws + 1 := rfl
@[simp] theorem countDraw_run_refused : (s.countDraw).run.refused = s.run.refused := rfl
@[simp] theorem countDraw_run_errSeen : (s.countDraw).run.errSeen = s.run.errSeen := rfl
@[simp] theorem countDraw_run_dropSeen : (s.countDraw).run.dropSeen = s.run.dropSeen := rfl
@[simp] theorem countDraw_readF (j : Fin 16) : (s.countDraw).readF j = s.readF j := rfl
@[simp] theorem countDraw_readP (n : Fin 8) : (s.countDraw).readP n = s.readP n := rfl
@[simp] theorem countDraw_readSk : (s.countDraw).readSk = s.readSk := rfl
@[simp] theorem countDraw_readSlot (j : Fin 16) : (s.countDraw).readSlot j = s.readSlot j := rfl
@[simp] theorem countDraw_busy : (s.countDraw).busy = s.busy := rfl
@[simp] theorem countDraw_pendingWord : (s.countDraw).pendingWord = s.pendingWord := rfl

/-! ### recordRefusal -/

@[simp] theorem recordRefusal_f : (s.recordRefusal).f = s.f := rfl
@[simp] theorem recordRefusal_sk : (s.recordRefusal).sk = s.sk := rfl
@[simp] theorem recordRefusal_mem : (s.recordRefusal).mem = s.mem := rfl
@[simp] theorem recordRefusal_ieDone : (s.recordRefusal).ieDone = s.ieDone := rfl
@[simp] theorem recordRefusal_ieErr : (s.recordRefusal).ieErr = s.ieErr := rfl
@[simp] theorem recordRefusal_done : (s.recordRefusal).done = s.done := rfl
@[simp] theorem recordRefusal_err : (s.recordRefusal).err = s.err := rfl
@[simp] theorem recordRefusal_drop : (s.recordRefusal).drop = s.drop := rfl
@[simp] theorem recordRefusal_inf : (s.recordRefusal).inf = s.inf := rfl
@[simp] theorem recordRefusal_zero : (s.recordRefusal).zero = s.zero := rfl
@[simp] theorem recordRefusal_errcode : (s.recordRefusal).errcode = s.errcode := rfl
@[simp] theorem recordRefusal_errcmd : (s.recordRefusal).errcmd = s.errcmd := rfl
@[simp] theorem recordRefusal_pending : (s.recordRefusal).pending = s.pending := rfl
@[simp] theorem recordRefusal_run_program : (s.recordRefusal).run.program = s.run.program := rfl
@[simp] theorem recordRefusal_run_schedule : (s.recordRefusal).run.schedule = s.run.schedule := rfl
@[simp] theorem recordRefusal_run_reads : (s.recordRefusal).run.reads = s.run.reads := rfl
@[simp] theorem recordRefusal_run_draws : (s.recordRefusal).run.draws = s.run.draws := rfl
@[simp] theorem recordRefusal_run_refused : (s.recordRefusal).run.refused = true := rfl
@[simp] theorem recordRefusal_run_errSeen : (s.recordRefusal).run.errSeen = s.run.errSeen := rfl
@[simp] theorem recordRefusal_run_dropSeen : (s.recordRefusal).run.dropSeen = s.run.dropSeen := rfl
@[simp] theorem recordRefusal_readF (j : Fin 16) : (s.recordRefusal).readF j = s.readF j := rfl
@[simp] theorem recordRefusal_readP (n : Fin 8) : (s.recordRefusal).readP n = s.readP n := rfl
@[simp] theorem recordRefusal_readSk : (s.recordRefusal).readSk = s.readSk := rfl
@[simp] theorem recordRefusal_readSlot (j : Fin 16) : (s.recordRefusal).readSlot j = s.readSlot j := rfl
@[simp] theorem recordRefusal_busy : (s.recordRefusal).busy = s.busy := rfl
@[simp] theorem recordRefusal_pendingWord : (s.recordRefusal).pendingWord = s.pendingWord := rfl

/-! ### popProgram -/

@[simp] theorem popProgram_f : (s.popProgram).f = s.f := rfl
@[simp] theorem popProgram_sk : (s.popProgram).sk = s.sk := rfl
@[simp] theorem popProgram_mem : (s.popProgram).mem = s.mem := rfl
@[simp] theorem popProgram_ieDone : (s.popProgram).ieDone = s.ieDone := rfl
@[simp] theorem popProgram_ieErr : (s.popProgram).ieErr = s.ieErr := rfl
@[simp] theorem popProgram_done : (s.popProgram).done = s.done := rfl
@[simp] theorem popProgram_err : (s.popProgram).err = s.err := rfl
@[simp] theorem popProgram_drop : (s.popProgram).drop = s.drop := rfl
@[simp] theorem popProgram_inf : (s.popProgram).inf = s.inf := rfl
@[simp] theorem popProgram_zero : (s.popProgram).zero = s.zero := rfl
@[simp] theorem popProgram_errcode : (s.popProgram).errcode = s.errcode := rfl
@[simp] theorem popProgram_errcmd : (s.popProgram).errcmd = s.errcmd := rfl
@[simp] theorem popProgram_pending : (s.popProgram).pending = s.pending := rfl
@[simp] theorem popProgram_run_program : (s.popProgram).run.program = s.run.program.tail := rfl
@[simp] theorem popProgram_run_schedule : (s.popProgram).run.schedule = s.run.schedule := rfl
@[simp] theorem popProgram_run_reads : (s.popProgram).run.reads = s.run.reads := rfl
@[simp] theorem popProgram_run_draws : (s.popProgram).run.draws = s.run.draws := rfl
@[simp] theorem popProgram_run_refused : (s.popProgram).run.refused = s.run.refused := rfl
@[simp] theorem popProgram_run_errSeen : (s.popProgram).run.errSeen = s.run.errSeen := rfl
@[simp] theorem popProgram_run_dropSeen : (s.popProgram).run.dropSeen = s.run.dropSeen := rfl
@[simp] theorem popProgram_readF (j : Fin 16) : (s.popProgram).readF j = s.readF j := rfl
@[simp] theorem popProgram_readP (n : Fin 8) : (s.popProgram).readP n = s.readP n := rfl
@[simp] theorem popProgram_readSk : (s.popProgram).readSk = s.readSk := rfl
@[simp] theorem popProgram_readSlot (j : Fin 16) : (s.popProgram).readSlot j = s.readSlot j := rfl
@[simp] theorem popProgram_busy : (s.popProgram).busy = s.busy := rfl
@[simp] theorem popProgram_pendingWord : (s.popProgram).pendingWord = s.pendingWord := rfl

/-! ### popSchedule -/

@[simp] theorem popSchedule_f : (s.popSchedule).f = s.f := rfl
@[simp] theorem popSchedule_sk : (s.popSchedule).sk = s.sk := rfl
@[simp] theorem popSchedule_mem : (s.popSchedule).mem = s.mem := rfl
@[simp] theorem popSchedule_ieDone : (s.popSchedule).ieDone = s.ieDone := rfl
@[simp] theorem popSchedule_ieErr : (s.popSchedule).ieErr = s.ieErr := rfl
@[simp] theorem popSchedule_done : (s.popSchedule).done = s.done := rfl
@[simp] theorem popSchedule_err : (s.popSchedule).err = s.err := rfl
@[simp] theorem popSchedule_drop : (s.popSchedule).drop = s.drop := rfl
@[simp] theorem popSchedule_inf : (s.popSchedule).inf = s.inf := rfl
@[simp] theorem popSchedule_zero : (s.popSchedule).zero = s.zero := rfl
@[simp] theorem popSchedule_errcode : (s.popSchedule).errcode = s.errcode := rfl
@[simp] theorem popSchedule_errcmd : (s.popSchedule).errcmd = s.errcmd := rfl
@[simp] theorem popSchedule_pending : (s.popSchedule).pending = s.pending := rfl
@[simp] theorem popSchedule_run_program : (s.popSchedule).run.program = s.run.program := rfl
@[simp] theorem popSchedule_run_schedule : (s.popSchedule).run.schedule = s.run.schedule.tail := rfl
@[simp] theorem popSchedule_run_reads : (s.popSchedule).run.reads = s.run.reads := rfl
@[simp] theorem popSchedule_run_draws : (s.popSchedule).run.draws = s.run.draws := rfl
@[simp] theorem popSchedule_run_refused : (s.popSchedule).run.refused = s.run.refused := rfl
@[simp] theorem popSchedule_run_errSeen : (s.popSchedule).run.errSeen = s.run.errSeen := rfl
@[simp] theorem popSchedule_run_dropSeen : (s.popSchedule).run.dropSeen = s.run.dropSeen := rfl
@[simp] theorem popSchedule_readF (j : Fin 16) : (s.popSchedule).readF j = s.readF j := rfl
@[simp] theorem popSchedule_readP (n : Fin 8) : (s.popSchedule).readP n = s.readP n := rfl
@[simp] theorem popSchedule_readSk : (s.popSchedule).readSk = s.readSk := rfl
@[simp] theorem popSchedule_readSlot (j : Fin 16) : (s.popSchedule).readSlot j = s.readSlot j := rfl
@[simp] theorem popSchedule_busy : (s.popSchedule).busy = s.busy := rfl
@[simp] theorem popSchedule_pendingWord : (s.popSchedule).pendingWord = s.pendingWord := rfl

/-! ### setInf -/

@[simp] theorem setInf_f (q : Point) : (s.setInf q).f = s.f := rfl
@[simp] theorem setInf_sk (q : Point) : (s.setInf q).sk = s.sk := rfl
@[simp] theorem setInf_mem (q : Point) : (s.setInf q).mem = s.mem := rfl
@[simp] theorem setInf_ieDone (q : Point) : (s.setInf q).ieDone = s.ieDone := rfl
@[simp] theorem setInf_ieErr (q : Point) : (s.setInf q).ieErr = s.ieErr := rfl
@[simp] theorem setInf_done (q : Point) : (s.setInf q).done = s.done := rfl
@[simp] theorem setInf_err (q : Point) : (s.setInf q).err = s.err := rfl
@[simp] theorem setInf_drop (q : Point) : (s.setInf q).drop = s.drop := rfl
@[simp] theorem setInf_inf (q : Point) : (s.setInf q).inf = decide (q.z = 0) := rfl
@[simp] theorem setInf_zero (q : Point) : (s.setInf q).zero = s.zero := rfl
@[simp] theorem setInf_errcode (q : Point) : (s.setInf q).errcode = s.errcode := rfl
@[simp] theorem setInf_errcmd (q : Point) : (s.setInf q).errcmd = s.errcmd := rfl
@[simp] theorem setInf_pending (q : Point) : (s.setInf q).pending = s.pending := rfl
@[simp] theorem setInf_run (q : Point) : (s.setInf q).run = s.run := rfl
@[simp] theorem setInf_readF (q : Point) (j : Fin 16) : (s.setInf q).readF j = s.readF j := rfl
@[simp] theorem setInf_readP (q : Point) (n : Fin 8) : (s.setInf q).readP n = s.readP n := rfl
@[simp] theorem setInf_readSk (q : Point) : (s.setInf q).readSk = s.readSk := rfl
@[simp] theorem setInf_readSlot (q : Point) (j : Fin 16) : (s.setInf q).readSlot j = s.readSlot j := rfl
@[simp] theorem setInf_busy (q : Point) : (s.setInf q).busy = s.busy := rfl
@[simp] theorem setInf_pendingWord (q : Point) : (s.setInf q).pendingWord = s.pendingWord := rfl

/-! ### setZero -/

@[simp] theorem setZero_f (out : List Byte) : (s.setZero out).f = s.f := rfl
@[simp] theorem setZero_sk (out : List Byte) : (s.setZero out).sk = s.sk := rfl
@[simp] theorem setZero_mem (out : List Byte) : (s.setZero out).mem = s.mem := rfl
@[simp] theorem setZero_ieDone (out : List Byte) : (s.setZero out).ieDone = s.ieDone := rfl
@[simp] theorem setZero_ieErr (out : List Byte) : (s.setZero out).ieErr = s.ieErr := rfl
@[simp] theorem setZero_done (out : List Byte) : (s.setZero out).done = s.done := rfl
@[simp] theorem setZero_err (out : List Byte) : (s.setZero out).err = s.err := rfl
@[simp] theorem setZero_drop (out : List Byte) : (s.setZero out).drop = s.drop := rfl
@[simp] theorem setZero_inf (out : List Byte) : (s.setZero out).inf = s.inf := rfl
@[simp] theorem setZero_zero (out : List Byte) : (s.setZero out).zero = out.all (· == 0) := rfl
@[simp] theorem setZero_errcode (out : List Byte) : (s.setZero out).errcode = s.errcode := rfl
@[simp] theorem setZero_errcmd (out : List Byte) : (s.setZero out).errcmd = s.errcmd := rfl
@[simp] theorem setZero_pending (out : List Byte) : (s.setZero out).pending = s.pending := rfl
@[simp] theorem setZero_run (out : List Byte) : (s.setZero out).run = s.run := rfl
@[simp] theorem setZero_readF (out : List Byte) (j : Fin 16) : (s.setZero out).readF j = s.readF j := rfl
@[simp] theorem setZero_readP (out : List Byte) (n : Fin 8) : (s.setZero out).readP n = s.readP n := rfl
@[simp] theorem setZero_readSk (out : List Byte) : (s.setZero out).readSk = s.readSk := rfl
@[simp] theorem setZero_readSlot (out : List Byte) (j : Fin 16) : (s.setZero out).readSlot j = s.readSlot j := rfl
@[simp] theorem setZero_busy (out : List Byte) : (s.setZero out).busy = s.busy := rfl
@[simp] theorem setZero_pendingWord (out : List Byte) : (s.setZero out).pendingWord = s.pendingWord := rfl

/-! ### clearDone -/

@[simp] theorem clearDone_f (v : Word) : (s.clearDone v).f = s.f := rfl
@[simp] theorem clearDone_sk (v : Word) : (s.clearDone v).sk = s.sk := rfl
@[simp] theorem clearDone_mem (v : Word) : (s.clearDone v).mem = s.mem := rfl
@[simp] theorem clearDone_ieDone (v : Word) : (s.clearDone v).ieDone = s.ieDone := rfl
@[simp] theorem clearDone_ieErr (v : Word) : (s.clearDone v).ieErr = s.ieErr := rfl
@[simp] theorem clearDone_done (v : Word) : (s.clearDone v).done = (s.done && !v.getLsbD 1) := rfl
@[simp] theorem clearDone_err (v : Word) : (s.clearDone v).err = s.err := rfl
@[simp] theorem clearDone_drop (v : Word) : (s.clearDone v).drop = s.drop := rfl
@[simp] theorem clearDone_inf (v : Word) : (s.clearDone v).inf = s.inf := rfl
@[simp] theorem clearDone_zero (v : Word) : (s.clearDone v).zero = s.zero := rfl
@[simp] theorem clearDone_errcode (v : Word) : (s.clearDone v).errcode = s.errcode := rfl
@[simp] theorem clearDone_errcmd (v : Word) : (s.clearDone v).errcmd = s.errcmd := rfl
@[simp] theorem clearDone_pending (v : Word) : (s.clearDone v).pending = s.pending := rfl
@[simp] theorem clearDone_run (v : Word) : (s.clearDone v).run = s.run := rfl
@[simp] theorem clearDone_readF (v : Word) (j : Fin 16) : (s.clearDone v).readF j = s.readF j := rfl
@[simp] theorem clearDone_readP (v : Word) (n : Fin 8) : (s.clearDone v).readP n = s.readP n := rfl
@[simp] theorem clearDone_readSk (v : Word) : (s.clearDone v).readSk = s.readSk := rfl
@[simp] theorem clearDone_readSlot (v : Word) (j : Fin 16) : (s.clearDone v).readSlot j = s.readSlot j := rfl
@[simp] theorem clearDone_busy (v : Word) : (s.clearDone v).busy = s.busy := rfl
@[simp] theorem clearDone_pendingWord (v : Word) : (s.clearDone v).pendingWord = s.pendingWord := rfl

/-! ### clearErr -/

@[simp] theorem clearErr_f (v : Word) : (s.clearErr v).f = s.f := rfl
@[simp] theorem clearErr_sk (v : Word) : (s.clearErr v).sk = s.sk := rfl
@[simp] theorem clearErr_mem (v : Word) : (s.clearErr v).mem = s.mem := rfl
@[simp] theorem clearErr_ieDone (v : Word) : (s.clearErr v).ieDone = s.ieDone := rfl
@[simp] theorem clearErr_ieErr (v : Word) : (s.clearErr v).ieErr = s.ieErr := rfl
@[simp] theorem clearErr_done (v : Word) : (s.clearErr v).done = s.done := rfl
@[simp] theorem clearErr_err (v : Word) : (s.clearErr v).err = (s.err && !v.getLsbD 2) := rfl
@[simp] theorem clearErr_drop (v : Word) : (s.clearErr v).drop = s.drop := rfl
@[simp] theorem clearErr_inf (v : Word) : (s.clearErr v).inf = s.inf := rfl
@[simp] theorem clearErr_zero (v : Word) : (s.clearErr v).zero = s.zero := rfl
@[simp] theorem clearErr_errcode (v : Word) : (s.clearErr v).errcode = if v.getLsbD 2 then 0 else s.errcode := rfl
@[simp] theorem clearErr_errcmd (v : Word) : (s.clearErr v).errcmd = if v.getLsbD 2 then 0 else s.errcmd := rfl
@[simp] theorem clearErr_pending (v : Word) : (s.clearErr v).pending = s.pending := rfl
@[simp] theorem clearErr_run (v : Word) : (s.clearErr v).run = s.run := rfl
@[simp] theorem clearErr_readF (v : Word) (j : Fin 16) : (s.clearErr v).readF j = s.readF j := rfl
@[simp] theorem clearErr_readP (v : Word) (n : Fin 8) : (s.clearErr v).readP n = s.readP n := rfl
@[simp] theorem clearErr_readSk (v : Word) : (s.clearErr v).readSk = s.readSk := rfl
@[simp] theorem clearErr_readSlot (v : Word) (j : Fin 16) : (s.clearErr v).readSlot j = s.readSlot j := rfl
@[simp] theorem clearErr_busy (v : Word) : (s.clearErr v).busy = s.busy := rfl
@[simp] theorem clearErr_pendingWord (v : Word) : (s.clearErr v).pendingWord = s.pendingWord := rfl

/-! ### clearDrop -/

@[simp] theorem clearDrop_f (v : Word) : (s.clearDrop v).f = s.f := rfl
@[simp] theorem clearDrop_sk (v : Word) : (s.clearDrop v).sk = s.sk := rfl
@[simp] theorem clearDrop_mem (v : Word) : (s.clearDrop v).mem = s.mem := rfl
@[simp] theorem clearDrop_ieDone (v : Word) : (s.clearDrop v).ieDone = s.ieDone := rfl
@[simp] theorem clearDrop_ieErr (v : Word) : (s.clearDrop v).ieErr = s.ieErr := rfl
@[simp] theorem clearDrop_done (v : Word) : (s.clearDrop v).done = s.done := rfl
@[simp] theorem clearDrop_err (v : Word) : (s.clearDrop v).err = s.err := rfl
@[simp] theorem clearDrop_drop (v : Word) : (s.clearDrop v).drop = (s.drop && !v.getLsbD 3) := rfl
@[simp] theorem clearDrop_inf (v : Word) : (s.clearDrop v).inf = s.inf := rfl
@[simp] theorem clearDrop_zero (v : Word) : (s.clearDrop v).zero = s.zero := rfl
@[simp] theorem clearDrop_errcode (v : Word) : (s.clearDrop v).errcode = s.errcode := rfl
@[simp] theorem clearDrop_errcmd (v : Word) : (s.clearDrop v).errcmd = s.errcmd := rfl
@[simp] theorem clearDrop_pending (v : Word) : (s.clearDrop v).pending = s.pending := rfl
@[simp] theorem clearDrop_run (v : Word) : (s.clearDrop v).run = s.run := rfl
@[simp] theorem clearDrop_readF (v : Word) (j : Fin 16) : (s.clearDrop v).readF j = s.readF j := rfl
@[simp] theorem clearDrop_readP (v : Word) (n : Fin 8) : (s.clearDrop v).readP n = s.readP n := rfl
@[simp] theorem clearDrop_readSk (v : Word) : (s.clearDrop v).readSk = s.readSk := rfl
@[simp] theorem clearDrop_readSlot (v : Word) (j : Fin 16) : (s.clearDrop v).readSlot j = s.readSlot j := rfl
@[simp] theorem clearDrop_busy (v : Word) : (s.clearDrop v).busy = s.busy := rfl
@[simp] theorem clearDrop_pendingWord (v : Word) : (s.clearDrop v).pendingWord = s.pendingWord := rfl

@[simp] theorem finish_busy : s.finish.busy = false := rfl

end Sys2Proof.Machine
end

