-- ==== Sys2Proof/Laws/Ops.lean ====
section
/-! SUPPORT. What a read of a register or a slot sees after a write of one, and what the shared ends of a command
leave behind. -/

namespace Sys2Proof.Machine

/-! ### Field and point registers -/

theorem readF_writeF (s : State) (i j : Fin 16) (v : Nat) :
    (s.writeF i v).readF j = if j = i then v % 2 ^ 255 else s.readF j := by
  unfold State.readF State.writeF
  by_cases h : j = i
  · subst h
    simp
  · rw [if_neg h]
    have h' : i.val ≠ j.val := fun e => h (Fin.ext e.symm)
    simp [Vector.getElem_set_ne, h']

/-- A value in [0, p) is read back whole. -/
theorem readF_writeF_same (s : State) (i : Fin 16) {v : Nat} (hv : v < prime) : (s.writeF i v).readF i = v := by
  rw [readF_writeF, if_pos rfl, Nat.mod_eq_of_lt (Nat.lt_trans hv prime_lt_two_pow)]

theorem readF_writeF_ne (s : State) {i j : Fin 16} (v : Nat) (h : j ≠ i) : (s.writeF i v).readF j = s.readF j := by
  rw [readF_writeF, if_neg h]

theorem pointZ_ne_pointX (m n : Fin 8) : pointZ m ≠ pointX n := by
  intro h
  have := congrArg Fin.val h
  simp only [pointX, pointZ] at this
  omega

theorem readP_writeP_same (s : State) (n : Fin 8) {q : Point} (hq : q.Reduced) : (s.writeP n q).readP n = q := by
  unfold State.readP State.writeP
  rw [readF_writeF_same _ _ hq.2, readF_writeF_ne _ _ (pointZ_ne_pointX n n).symm, readF_writeF_same _ _ hq.1]

theorem readF_writeP_ne (s : State) {n : Fin 8} (q : Point) {j : Fin 16} (hx : j ≠ pointX n) (hz : j ≠ pointZ n) :
    (s.writeP n q).readF j = s.readF j := by
  unfold State.writeP
  rw [readF_writeF_ne _ _ hz, readF_writeF_ne _ _ hx]

/-- A write of a value in [0, p) keeps every register in [0, p). -/
theorem field_writeF {s : State} (hs : ∀ j, s.readF j < prime) {i : Fin 16} {v : Nat} (hv : v < prime) (j : Fin 16) :
    (s.writeF i v).readF j < prime := by
  by_cases h : j = i
  · subst h
    rwa [readF_writeF_same _ _ hv]
  · rw [readF_writeF_ne _ _ h]
    exact hs j

theorem field_writeP {s : State} (hs : ∀ j, s.readF j < prime) {n : Fin 8} {q : Point} (hq : q.Reduced) (j : Fin 16) :
    (s.writeP n q).readF j < prime :=
  field_writeF (field_writeF hs hq.1) hq.2 j

/-! ### SK -/

theorem readSk_writeSk (s : State) {v : Nat} (hv : v < 2 ^ 256) : (s.writeSk v).readSk = v := by
  unfold State.readSk State.writeSk
  rw [BitVec.toNat_ofNat, Nat.mod_eq_of_lt hv]

/-! ### Slots -/

@[simp] theorem readSlot_length (s : State) (i : Fin 16) : (s.readSlot i).length = 32 :=
  Memory.readBytes_length _ _ _

theorem slot_fits (i : Fin 16) : 32 * i.val + 32 ≤ Memory.size := by
  have := i.isLt
  simp only [Memory.size]
  omega

theorem readSlot_writeSlot_same {s : State} (hs : Memory.wf s.mem = true) (i : Fin 16) {b : List Byte}
    (hb : b.length = 32) : (s.writeSlot i b).readSlot i = b := by
  have h := Memory.readBytes_writeBytes_same (a := 32 * i.val) (bs := b) hs (by rw [hb]; exact slot_fits i)
  rw [hb] at h
  exact h

theorem readSlot_writeSlot_ne {s : State} (hs : Memory.wf s.mem = true) {i j : Fin 16} (hij : j ≠ i) {b : List Byte}
    (hb : b.length = 32) : (s.writeSlot i b).readSlot j = s.readSlot j := by
  have hne : j.val ≠ i.val := fun e => hij (Fin.ext e)
  apply Memory.readBytes_writeBytes_other hs (by rw [hb]; exact slot_fits i)
  omega

theorem wf_writeSlot {s : State} (hs : Memory.wf s.mem = true) (i : Fin 16) {b : List Byte} (hb : b.length = 32) :
    Memory.wf (s.writeSlot i b).mem = true :=
  Memory.wf_writeBytes hs (by rw [hb]; exact slot_fits i)

/-- Every byte outside the slot reads as before. -/
theorem read_writeSlot_outside {s : State} (hs : Memory.wf s.mem = true) (i : Fin 16) {b : List Byte}
    (hb : b.length = 32) {a : Nat} (ha : a < 32 * i.val ∨ 32 * i.val + 32 ≤ a) :
    Memory.read (s.writeSlot i b).mem a = Memory.read s.mem a := by
  rw [writeSlot_mem, Memory.read_writeBytes hs (by rw [hb]; exact slot_fits i), if_neg (by omega)]

/-! ### Operand-RAM words -/

theorem wf_writeRamWord {m : Memory} (hm : Memory.wf m = true) (k : Fin 128) (v : Word) :
    Memory.wf (Memory.writeBytes m (4 * k.val) (wordBytes v)) = true := by
  have := k.isLt
  exact Memory.wf_writeBytes hm (by simp only [wordBytes_length, Memory.size]; omega)

/-! ### How a command ends -/

/-- A command that completes without error answers the state its effect made, finished. -/
theorem complete_next {s t : State} (h : complete s = .next t) : t = s.finish := by
  cases h
  rfl

/-- The error entry answers the old state with the record. -/
theorem raise_next {e : ErrorCause} {w : Word} {s t : State} (h : raise e w s = .next t) :
    t = (s.recordError e w).finish := by
  cases h
  rfl

/-- FINV ends in the error entry exactly when its source is 0. -/
theorem execFinv_cases (d a : FReg) (s : State) :
    (s.readF (fIndex a) = 0 ∧ execFinv d a s = raise .invZero s.pendingWord s) ∨
    (s.readF (fIndex a) ≠ 0 ∧ execFinv d a s = complete (s.writeF (fIndex d) (finv (s.readF (fIndex a))))) := by
  by_cases h : s.readF (fIndex a) = 0
  · exact .inl ⟨h, if_pos h⟩
  · exact .inr ⟨h, if_neg h⟩

end Sys2Proof.Machine
end

