-- ==== Sys2Proof/Laws/Exec.lean ====
section
/-! SUPPORT. What `exec` answers for each command: the effect, in the named operations, and the end. A proof about
`exec` rewrites with these and then needs only the lemmas about the named operations. -/

namespace Sys2Proof.Machine

variable (s : State)

theorem exec_fadd (d a b : FReg) :
    exec (.fadd d a b) s = complete (s.writeF (fIndex d) (fadd (s.readF (fIndex a)) (s.readF (fIndex b)))) := rfl

theorem exec_fsub (d a b : FReg) :
    exec (.fsub d a b) s = complete (s.writeF (fIndex d) (fsub (s.readF (fIndex a)) (s.readF (fIndex b)))) := rfl

theorem exec_fmul (d a b : FReg) :
    exec (.fmul d a b) s = complete (s.writeF (fIndex d) (fmul (s.readF (fIndex a)) (s.readF (fIndex b)))) := rfl

theorem exec_fpow (d a b : FReg) :
    exec (.fpow d a b) s = complete (s.writeF (fIndex d) (fpow (s.readF (fIndex a)) (s.readF (fIndex b)))) := rfl

theorem exec_finv (d a : FReg) : exec (.finv d a) s = execFinv d a s := rfl

theorem exec_fmov (d a : FReg) :
    exec (.fmov d a) s = complete (s.writeF (fIndex d) (s.readF (fIndex a))) := rfl

theorem exec_fldi (d : FReg) (imm : Imm22) :
    exec (.fldi d imm) s = complete (s.writeF (fIndex d) imm.toNat) := rfl

theorem exec_pdbl (d a : PReg) :
    exec (.pdbl d a) s = complete (s.writeP (pIndex d) (dbl (s.readP (pIndex a)))) := rfl

theorem exec_padd (d a b c : PReg) :
    exec (.padd d a b c) s =
      complete (s.writeP (pIndex d) (dadd (s.readP (pIndex a)) (s.readP (pIndex b)) (s.readP (pIndex c)))) := rfl

theorem exec_ldk (a : Slot) :
    exec (.ldk a) s = complete (s.writeSk (leToNat (s.readSlot (sIndex a)))) := rfl

theorem exec_clampk (a : Slot) :
    exec (.clampk a) s = complete (s.writeSk (clamp (s.readSlot (sIndex a)))) := rfl

theorem exec_stk (d : Slot) :
    exec (.stk d) s = complete (s.writeSlot (sIndex d) (le32 s.readSk)) := rfl

theorem exec_ladder (d a : PReg) :
    exec (.ladder d a) s = complete (s.writeP (pIndex d) (scalarMul s.readSk (s.readP (pIndex a)))) := rfl

theorem exec_ldf (d : FReg) (a : Slot) :
    exec (.ldf d a) s = complete (s.writeF (fIndex d) (bytesToField (s.readSlot (sIndex a)))) := rfl

theorem exec_stf (d : Slot) (a : FReg) :
    exec (.stf d a) s = complete (s.writeSlot (sIndex d) (fieldToBytes (s.readF (fIndex a)))) := rfl

theorem exec_pproj (d : PReg) (a : FReg) :
    exec (.pproj d a) s = complete (s.writeP (pIndex d) (toProjective (s.readF (fIndex a)))) := rfl

theorem exec_pinf (d : PReg) : exec (.pinf d) s = complete (s.writeP (pIndex d) neutral) := rfl

theorem exec_pcomp (d : FReg) (a : PReg) :
    exec (.pcomp d a) s =
      complete ((s.writeF (fIndex d) (compressedValue (s.readP (pIndex a)))).setInf (s.readP (pIndex a))) := rfl

theorem exec_x25519 (d a b : Slot) :
    exec (.x25519 d a b) s =
      complete (s.agree d (scalarMul (clamp (s.readSlot (sIndex a)))
        (toProjective (bytesToField (s.readSlot (sIndex b)))))) := rfl

theorem exec_x25519b (d a : Slot) :
    exec (.x25519b d a) s =
      complete (s.agree d (scalarMul (clamp (s.readSlot (sIndex a))) (toProjective baseX))) := rfl

/-! ### What a key-agreement command leaves alone

These rest on `simp`, not on `rfl`: a definitional check would compare the flag ZERO too, and evaluate the ladder. -/

@[simp] theorem agree_mem (d : Slot) (q : Point) :
    (s.agree d q).mem = (s.writeSlot (sIndex d) (fieldToBytes (compressedValue q))).mem := by simp [State.agree]
@[simp] theorem agree_inf (d : Slot) (q : Point) : (s.agree d q).inf = decide (q.z = 0) := by simp [State.agree]
@[simp] theorem agree_zero (d : Slot) (q : Point) :
    (s.agree d q).zero = (fieldToBytes (compressedValue q)).all (· == 0) := by simp [State.agree]
@[simp] theorem agree_f (d : Slot) (q : Point) : (s.agree d q).f = s.f := by simp [State.agree]
@[simp] theorem agree_sk (d : Slot) (q : Point) : (s.agree d q).sk = s.sk := by simp [State.agree]
@[simp] theorem agree_ieDone (d : Slot) (q : Point) : (s.agree d q).ieDone = s.ieDone := by simp [State.agree]
@[simp] theorem agree_ieErr (d : Slot) (q : Point) : (s.agree d q).ieErr = s.ieErr := by simp [State.agree]
@[simp] theorem agree_done (d : Slot) (q : Point) : (s.agree d q).done = s.done := by simp [State.agree]
@[simp] theorem agree_err (d : Slot) (q : Point) : (s.agree d q).err = s.err := by simp [State.agree]
@[simp] theorem agree_drop (d : Slot) (q : Point) : (s.agree d q).drop = s.drop := by simp [State.agree]
@[simp] theorem agree_errcode (d : Slot) (q : Point) : (s.agree d q).errcode = s.errcode := by simp [State.agree]
@[simp] theorem agree_errcmd (d : Slot) (q : Point) : (s.agree d q).errcmd = s.errcmd := by simp [State.agree]
@[simp] theorem agree_pending (d : Slot) (q : Point) : (s.agree d q).pending = s.pending := by simp [State.agree]
@[simp] theorem agree_run (d : Slot) (q : Point) : (s.agree d q).run = s.run := by simp [State.agree]
@[simp] theorem agree_readF (d : Slot) (q : Point) (j : Fin 16) : (s.agree d q).readF j = s.readF j := by
  simp [State.agree]

/-! ### What a command can do -/

/-- The effect of a command up to its end: at most F, SK, operand RAM, INF and ZERO differ, the field registers stay
in [0, p) and operand RAM stays canonical. -/
structure CommandEffect (s u : State) : Prop where
  field : (∀ j : Fin 16, s.readF j < prime) → ∀ j : Fin 16, u.readF j < prime
  mem : Memory.wf s.mem = true → Memory.wf u.mem = true
  ieDone : u.ieDone = s.ieDone
  ieErr : u.ieErr = s.ieErr
  err : u.err = s.err
  drop : u.drop = s.drop
  errcode : u.errcode = s.errcode
  errcmd : u.errcmd = s.errcmd
  pending : u.pending = s.pending
  run : u.run = s.run

theorem commandEffect_writeF {i : Fin 16} {v : Nat} (h : (∀ j : Fin 16, s.readF j < prime) → v < prime) :
    CommandEffect s (s.writeF i v) :=
  ⟨fun hs => field_writeF hs (h hs), id, rfl, rfl, rfl, rfl, rfl, rfl, rfl, rfl⟩

theorem commandEffect_writeP {n : Fin 8} {q : Point} (h : (∀ j : Fin 16, s.readF j < prime) → q.Reduced) :
    CommandEffect s (s.writeP n q) :=
  ⟨fun hs => field_writeP hs (h hs), id, rfl, rfl, rfl, rfl, rfl, rfl, rfl, rfl⟩

theorem commandEffect_writeSk (v : Nat) : CommandEffect s (s.writeSk v) :=
  ⟨id, id, rfl, rfl, rfl, rfl, rfl, rfl, rfl, rfl⟩

theorem commandEffect_writeSlot (i : Fin 16) {b : List Byte} (hb : b.length = 32) : CommandEffect s (s.writeSlot i b) :=
  ⟨id, fun hs => wf_writeSlot hs i hb, rfl, rfl, rfl, rfl, rfl, rfl, rfl, rfl⟩

theorem commandEffect_setInf {s u : State} (q : Point) (h : CommandEffect s u) : CommandEffect s (u.setInf q) :=
  ⟨h.field, h.mem, h.ieDone, h.ieErr, h.err, h.drop, h.errcode, h.errcmd, h.pending, h.run⟩

theorem commandEffect_agree (d : Slot) (q : Point) : CommandEffect s (s.agree d q) := by
  have h := commandEffect_writeSlot s (sIndex d) (fieldToBytes_length (compressedValue q))
  constructor
  case field => simp
  case mem => simpa using h.mem
  all_goals simp

/-- The first thing a proof about every command needs: exec either completes the command with such an effect, or it is
FINV of 0 and takes the error entry. -/
theorem exec_cases (i : Instr) (s : State) :
    (∃ u, CommandEffect s u ∧ exec i s = complete u) ∨
    (∃ d a, i = .finv d a ∧ s.readF (fIndex a) = 0 ∧ exec i s = raise .invZero s.pendingWord s) := by
  cases i with
  | fadd d a b => exact .inl ⟨_, commandEffect_writeF s fun _ => fadd_lt _ _, exec_fadd s d a b⟩
  | fsub d a b => exact .inl ⟨_, commandEffect_writeF s fun _ => fsub_lt _ _, exec_fsub s d a b⟩
  | fmul d a b => exact .inl ⟨_, commandEffect_writeF s fun _ => fmul_lt _ _, exec_fmul s d a b⟩
  | fpow d a b => exact .inl ⟨_, commandEffect_writeF s fun _ => fpow_lt _ _, exec_fpow s d a b⟩
  | finv d a =>
    rcases execFinv_cases d a s with ⟨h0, h⟩ | ⟨_, h⟩
    · exact .inr ⟨d, a, rfl, h0, h⟩
    · exact .inl ⟨_, commandEffect_writeF s fun _ => finv_lt _, h⟩
  | fmov d a => exact .inl ⟨_, commandEffect_writeF s fun hs => hs _, exec_fmov s d a⟩
  | fldi d imm =>
    exact .inl ⟨_, commandEffect_writeF s fun _ => Nat.lt_trans imm.isLt (by decide), exec_fldi s d imm⟩
  | pdbl d a => exact .inl ⟨_, commandEffect_writeP s fun _ => dbl_reduced _, exec_pdbl s d a⟩
  | padd d a b c => exact .inl ⟨_, commandEffect_writeP s fun _ => dadd_reduced _ _ _, exec_padd s d a b c⟩
  | ldk a => exact .inl ⟨_, commandEffect_writeSk s _, exec_ldk s a⟩
  | clampk a => exact .inl ⟨_, commandEffect_writeSk s _, exec_clampk s a⟩
  | stk d => exact .inl ⟨_, commandEffect_writeSlot s _ (le32_length _), exec_stk s d⟩
  | ladder d a => exact .inl ⟨_, commandEffect_writeP s fun _ => scalarMul_reduced _ _, exec_ladder s d a⟩
  | ldf d a => exact .inl ⟨_, commandEffect_writeF s fun _ => bytesToField_lt _, exec_ldf s d a⟩
  | stf d a => exact .inl ⟨_, commandEffect_writeSlot s _ (fieldToBytes_length _), exec_stf s d a⟩
  | pproj d a => exact .inl ⟨_, commandEffect_writeP s fun hs => ⟨hs _, show 1 < prime by decide⟩, exec_pproj s d a⟩
  | pinf d => exact .inl ⟨_, commandEffect_writeP s fun _ => ⟨by decide, by decide⟩, exec_pinf s d⟩
  | pcomp d a =>
    exact .inl ⟨_, commandEffect_setInf _ (commandEffect_writeF s fun _ => compressedValue_lt _), exec_pcomp s d a⟩
  | x25519 d a b => exact .inl ⟨_, commandEffect_agree s _ _, exec_x25519 s d a b⟩
  | x25519b d a => exact .inl ⟨_, commandEffect_agree s _ _, exec_x25519b s d a⟩

/-! ### The step, agent by agent -/

theorem step_refused {s : State} (h : s.run.refused = true) : step s = .refused .nonContractAccess := by
  simp [step, h]

theorem step_idle {s : State} (h : s.run.refused = false) (ha : s.nextAgent = none) :
    step s = .next s.popSchedule := by
  simp [step, h, ha]

theorem step_reset {s : State} (h : s.run.refused = false) (ha : s.nextAgent = some .reset) :
    step s = .next s.popSchedule.resetBlock := by
  simp [step, h, ha]

theorem step_host {s : State} (h : s.run.refused = false) (ha : s.nextAgent = some .host) :
    step s = .next s.popSchedule.hostStep := by
  simp [step, h, ha]

theorem step_engine {s : State} (h : s.run.refused = false) (ha : s.nextAgent = some .engine) :
    step s = completionStep s.popSchedule := by
  simp [step, h, ha]

/-- A step that answers a next state is one of these four. -/
theorem step_next_cases {s t : State} (h : step s = .next t) :
    s.run.refused = false ∧
    ((s.nextAgent = none ∧ t = s.popSchedule) ∨
     (s.nextAgent = some .reset ∧ t = s.popSchedule.resetBlock) ∨
     (s.nextAgent = some .host ∧ t = s.popSchedule.hostStep) ∨
     (s.nextAgent = some .engine ∧ completionStep s.popSchedule = .next t)) := by
  cases hr : s.run.refused with
  | true => rw [step_refused hr] at h; cases h
  | false =>
    refine ⟨rfl, ?_⟩
    cases ha : s.nextAgent with
    | none => rw [step_idle hr ha] at h; cases h; exact .inl ⟨rfl, rfl⟩
    | some a =>
      cases a with
      | reset => rw [step_reset hr ha] at h; cases h; exact .inr (.inl ⟨rfl, rfl⟩)
      | host => rw [step_host hr ha] at h; cases h; exact .inr (.inr (.inl ⟨rfl, rfl⟩))
      | engine => rw [step_engine hr ha] at h; exact .inr (.inr (.inr ⟨rfl, h⟩))

/-- The engine moves only while a command is pending. -/
theorem busy_of_nextAgent_engine {s : State} (h : s.nextAgent = some .engine) : s.busy = true := by
  cases hb : s.busy with
  | true => rfl
  | false =>
    have hd : s.defaultAgent ≠ some .engine := by
      unfold State.defaultAgent
      rw [hb]
      cases s.run.program.isEmpty <;> decide
    refine absurd h ?_
    unfold State.nextAgent
    rw [hb]
    split
    · decide
    · split
      · exact hd
      · decide
    · exact hd
    · exact hd

/-- A completion step raises E_ILLEGAL or performs the decoded command. -/
theorem completionStep_cases {s : State} {w : Word} (h : s.pending = some w) :
    ((∃ e, decode w = .error e) ∧ completionStep s = raise .illegal w s) ∨
    (∃ i, decode w = .ok i ∧ completionStep s = exec i s) := by
  unfold completionStep
  rw [h]
  cases hd : decode w with
  | error e => exact .inl ⟨⟨e, rfl⟩, by simp [hd]⟩
  | ok i => exact .inr ⟨i, rfl, by simp [hd]⟩

/-! ### Runs -/

theorem run_succ_next {s t : State} (n : Nat) (h : step s = .next t) : core.run (n + 1) s = core.run n t := by
  simp only [Host.Core.run, show core.step s = .next t from h]

theorem run_succ_refused {s : State} {r : Refusal} (n : Nat) (h : step s = .refused r) :
    core.run (n + 1) s = .refused r := by
  simp only [Host.Core.run, show core.step s = .refused r from h]

end Sys2Proof.Machine
end

