-- ==== Sys2Proof/Laws/PerInstr.lean ====
section
/-! SUPPORT. A statement about every instruction as syntax: its word carries its opcode number in bits 31:26, which
is one of the opcode map's (30_encoding.md R111, R115). -/

namespace Sys2Proof.Laws.OpcodeNumber

/-- The instruction's word carries its opcode number, and the number stands in the opcode map (30_encoding.md
R111, R115). -/
def Statement (i : Instr) : Prop :=
  opField (encode i) = i.opcode ∧ i.opcode ∈ opcodeMap.map OpcodeRow.op

theorem fadd (d a b : FReg) : Statement (.fadd d a b) := ⟨opField_packR _ _ _ _ _ _, by simp [opcodeMap, Instr.opcode]⟩
theorem fsub (d a b : FReg) : Statement (.fsub d a b) := ⟨opField_packR _ _ _ _ _ _, by simp [opcodeMap, Instr.opcode]⟩
theorem fmul (d a b : FReg) : Statement (.fmul d a b) := ⟨opField_packR _ _ _ _ _ _, by simp [opcodeMap, Instr.opcode]⟩
theorem fpow (d a b : FReg) : Statement (.fpow d a b) := ⟨opField_packR _ _ _ _ _ _, by simp [opcodeMap, Instr.opcode]⟩
theorem finv (d a : FReg) : Statement (.finv d a) := ⟨opField_packR _ _ _ _ _ _, by simp [opcodeMap, Instr.opcode]⟩
theorem fmov (d a : FReg) : Statement (.fmov d a) := ⟨opField_packR _ _ _ _ _ _, by simp [opcodeMap, Instr.opcode]⟩
theorem fldi (d : FReg) (imm : Imm22) : Statement (.fldi d imm) := ⟨opField_packI _ _ _, by simp [opcodeMap, Instr.opcode]⟩
theorem pdbl (d a : PReg) : Statement (.pdbl d a) := ⟨opField_packR _ _ _ _ _ _, by simp [opcodeMap, Instr.opcode]⟩
theorem padd (d a b c : PReg) : Statement (.padd d a b c) := ⟨opField_packR _ _ _ _ _ _, by simp [opcodeMap, Instr.opcode]⟩
theorem ldk (a : Slot) : Statement (.ldk a) := ⟨opField_packR _ _ _ _ _ _, by simp [opcodeMap, Instr.opcode]⟩
theorem clampk (a : Slot) : Statement (.clampk a) := ⟨opField_packR _ _ _ _ _ _, by simp [opcodeMap, Instr.opcode]⟩
theorem stk (d : Slot) : Statement (.stk d) := ⟨opField_packR _ _ _ _ _ _, by simp [opcodeMap, Instr.opcode]⟩
theorem ladder (d a : PReg) : Statement (.ladder d a) := ⟨opField_packR _ _ _ _ _ _, by simp [opcodeMap, Instr.opcode]⟩
theorem ldf (d : FReg) (a : Slot) : Statement (.ldf d a) := ⟨opField_packR _ _ _ _ _ _, by simp [opcodeMap, Instr.opcode]⟩
theorem stf (d : Slot) (a : FReg) : Statement (.stf d a) := ⟨opField_packR _ _ _ _ _ _, by simp [opcodeMap, Instr.opcode]⟩
theorem pproj (d : PReg) (a : FReg) : Statement (.pproj d a) := ⟨opField_packR _ _ _ _ _ _, by simp [opcodeMap, Instr.opcode]⟩
theorem pinf (d : PReg) : Statement (.pinf d) := ⟨opField_packR _ _ _ _ _ _, by simp [opcodeMap, Instr.opcode]⟩
theorem pcomp (d : FReg) (a : PReg) : Statement (.pcomp d a) := ⟨opField_packR _ _ _ _ _ _, by simp [opcodeMap, Instr.opcode]⟩
theorem x25519 (d a b : Slot) : Statement (.x25519 d a b) := ⟨opField_packR _ _ _ _ _ _, by simp [opcodeMap, Instr.opcode]⟩
theorem x25519b (d a : Slot) : Statement (.x25519b d a) := ⟨opField_packR _ _ _ _ _ _, by simp [opcodeMap, Instr.opcode]⟩

end Sys2Proof.Laws.OpcodeNumber
end

