-- ==== Sys2Proof/Tests/Slice0.lean ====
section
/-! SUPPORT. Tests. Every expected value comes from the spec: the vectors of 95_test_vectors.md, the worked examples of
the rules, or a word written out bit by bit from the encoding. Each effect test is one step. -/

namespace Sys2Proof.Tests

open Sys2Proof.Machine Sys2Proof.Claims

/-! ### Small states -/

/-- The reset state with these field registers set. -/
def withF (fs : List (Fin 16 × Nat)) : State := fs.foldl (fun s p => s.writeF p.1 p.2) State.reset

/-- A state with a slot set to the little-endian bytes of `v`. -/
def withSlot (i : Fin 16) (v : Nat) (s : State) : State := s.writeSlot i (le32 v)

/-- The state after the step that performs the word. -/
def after (w : Nat) (s : State) : Option State :=
  match step (s.withFetchWord 32 w) with
  | .next t => some t
  | _ => none

/-- The integer of a slot. -/
def slotInt (i : Fin 16) (s : State) : Nat := leToNat (s.readSlot i)

/-- A 32-bit read, and a 32-bit write. -/
def r32 (off : Offset) : HostOp := .access off { kind := .read }
def w32 (off : Offset) (v : Word) : HostOp := .access off { kind := .write v }

/-- The state with this host program and this schedule still to run. -/
def withProgram (ops : List HostOp) (sch : List Agent) (s : State) : State :=
  { s with run := { s.run with program := ops, schedule := sch } }

/-- A command is pending. -/
def busy (w : Word) : State := { State.reset with pending := some w }

/-- An illegal word has been recorded. -/
def failed : State :=
  { State.reset with err := true, errcode := 1, errcmd := 0x04000001, done := true,
                     run := { Run.launch with errSeen := true } }

/-- LE of Alice's secret, 95_test_vectors.md L1-1. -/
def alice : Nat := 0x2A2CB91DA5FB77B12A99C0EB872F4CDF4566B25172C1163C7DA518730A6D0777

/-! ### Well-formedness: bit 3 of every point field (30_encoding.md R113, R117) -/

theorem test_wf_pdbl_d : (Instr.pdbl 8 0).wellFormed = false := by decide
theorem test_wf_pdbl_a : (Instr.pdbl 0 8).wellFormed = false := by decide
theorem test_wf_padd_d : (Instr.padd 8 0 0 0).wellFormed = false := by decide
theorem test_wf_padd_a : (Instr.padd 0 8 0 0).wellFormed = false := by decide
theorem test_wf_padd_b : (Instr.padd 0 0 8 0).wellFormed = false := by decide
theorem test_wf_padd_c : (Instr.padd 0 0 0 8).wellFormed = false := by decide
theorem test_wf_ladder_d : (Instr.ladder 15 0).wellFormed = false := by decide
theorem test_wf_ladder_a : (Instr.ladder 0 15).wellFormed = false := by decide
theorem test_wf_pproj_d : (Instr.pproj 8 15).wellFormed = false := by decide
theorem test_wf_pinf_d : (Instr.pinf 8).wellFormed = false := by decide
theorem test_wf_pcomp_a : (Instr.pcomp 15 8).wellFormed = false := by decide

/-! ### Decoding: the fields op, d, a, b, c, rsv written out in bits (30_encoding.md R111, R112, R115) -/

theorem test_decode_fadd : decode 0b000001_1111_0001_1000_0000_0000000000 = .ok (.fadd 15 1 8) := by decide
theorem test_decode_fsub : decode 0b000010_0001_1111_0010_0000_0000000000 = .ok (.fsub 1 15 2) := by decide
theorem test_decode_fmul : decode 0b000011_1000_0100_0010_0000_0000000000 = .ok (.fmul 8 4 2) := by decide
theorem test_decode_fpow : decode 0b000100_0011_0101_1010_0000_0000000000 = .ok (.fpow 3 5 10) := by decide
theorem test_decode_finv : decode 0b000101_1110_0111_0000_0000_0000000000 = .ok (.finv 14 7) := by decide
theorem test_decode_fmov : decode 0b000110_0111_1110_0000_0000_0000000000 = .ok (.fmov 7 14) := by decide
theorem test_decode_fldi : decode 0b000111_1011_1000000000000000000001 = .ok (.fldi 11 0x200001) := by decide
theorem test_decode_pdbl : decode 0b010000_0111_0101_0000_0000_0000000000 = .ok (.pdbl 7 5) := by decide
theorem test_decode_padd : decode 0b010001_0001_0010_0100_0111_0000000000 = .ok (.padd 1 2 4 7) := by decide
theorem test_decode_ldk : decode 0b011000_0000_1101_0000_0000_0000000000 = .ok (.ldk 13) := by decide
theorem test_decode_clampk : decode 0b011001_0000_1011_0000_0000_0000000000 = .ok (.clampk 11) := by decide
theorem test_decode_stk : decode 0b011010_1101_0000_0000_0000_0000000000 = .ok (.stk 13) := by decide
theorem test_decode_ladder : decode 0b011011_0110_0011_0000_0000_0000000000 = .ok (.ladder 6 3) := by decide
theorem test_decode_ldf : decode 0b100000_1010_0101_0000_0000_0000000000 = .ok (.ldf 10 5) := by decide
theorem test_decode_stf : decode 0b100001_0101_1010_0000_0000_0000000000 = .ok (.stf 5 10) := by decide
theorem test_decode_pproj : decode 0b100010_0110_1111_0000_0000_0000000000 = .ok (.pproj 6 15) := by decide
theorem test_decode_pinf : decode 0b100011_0111_0000_0000_0000_0000000000 = .ok (.pinf 7) := by decide
theorem test_decode_pcomp : decode 0b100100_1111_0110_0000_0000_0000000000 = .ok (.pcomp 15 6) := by decide
theorem test_decode_x25519 : decode 0b110000_0001_0010_1100_0000_0000000000 = .ok (.x25519 1 2 12) := by decide
theorem test_decode_x25519b : decode 0b110001_1001_0110_0000_0000_0000000000 = .ok (.x25519b 9 6) := by decide

/-! Illegal words: V-ENC-17, 20, 21, 23, 24, and the first opcode after each block of the map. -/

theorem test_illegal_zero_word : decode 0 = .error .reservedOpcode := by decide
theorem test_illegal_finv_b : decode 0x14004000 = .error .unusedField := by decide
theorem test_illegal_opcode_08 : decode 0x20000000 = .error .reservedOpcode := by decide
theorem test_illegal_opcode_12 : decode 0x48000000 = .error .reservedOpcode := by decide
theorem test_illegal_opcode_25 : decode 0x94000000 = .error .reservedOpcode := by decide
theorem test_illegal_opcode_3F : decode 0xFC000000 = .error .reservedOpcode := by decide
theorem test_illegal_ladder_rsv : decode 0x6C000400 = .error .unusedField := by decide
theorem test_illegal_padd_c : decode 0x44002000 = .error .pointIndex := by decide

/-! Other V-ENC rows, by the assembler: V-ENC-5, 9, 11, 13, 14, 16, 22, case, and R126. -/

theorem test_asm_padd : (assemble "PADD p2, p0, p1, p0").map encode = some 0x44804000 := by decide
theorem test_asm_ldk : (assemble "LDK s3").map encode = some 0x600C0000 := by decide
theorem test_asm_stf : (assemble "STF s0, f3").map encode = some 0x840C0000 := by decide
theorem test_asm_pcomp : (assemble "PCOMP f13, p4").map encode = some 0x93500000 := by decide
theorem test_asm_fsub : (assemble "fsub f14, f12, f13").map encode = some 0x0BB34000 := by decide
theorem test_asm_fsqr : (assemble "FSQR f2, f5").map encode = some 0x0C954000 := by decide
theorem test_asm_fdbl : assemble "FDBL f1, f2" = some (.fadd 1 2 2) := by decide
theorem test_asm_fclr : assemble "FCLR f7" = some (.fldi 7 0) := by decide
theorem test_asm_fldi : (assemble "FLDI f15, 0x3FFFFF").map encode = some 0x1FFFFFFF := by decide
theorem test_asm_imm_too_big : assemble "FLDI f0, 4194304" = none := by decide

/-! ### One step of each command -/

/-- V-FLD-1. -/
theorem test_fadd : (after 0x04C48000 (withF [(1, prime - 1), (2, 2)])).map (·.readF 3) = some 1 := by decide
/-- V-FLD-3, and FSUB of equal registers onto a source (41_field.md R141). -/
theorem test_fsub : (after 0x08048000 (withF [(2, 1)])).map (·.readF 0) = some (prime - 1) := by decide
theorem test_fsub_same : (after 0x08444000 (withF [(1, 5)])).map (·.readF 1) = some 0 := by decide
/-- V-FLD-5, V-FLD-6. -/
theorem test_fmul : (after 0x0C048000 (withF [(1, prime - 1), (2, prime - 1)])).map (·.readF 0) = some 1 := by
  decide
theorem test_fmul_wide : (after 0x0C048000 (withF [(1, 2 ^ 128), (2, 2 ^ 128)])).map (·.readF 0) = some 38 := by
  decide
/-- V-FLD-19. -/
theorem test_fmov : (after 0x19140000 (withF [(5, 9)])).map (·.readF 4) = some 9 := by decide
/-- V-FLD-20. -/
theorem test_fldi : (after 0x1FFFFFFF State.reset).map (·.readF 15) = some 0x3FFFFF := by decide
/-- V-PT-1, V-PT-5. -/
theorem test_pdbl : (after 0x40400000 (withF [(0, 9), (1, 1)])).map (·.readP 1) = some ⟨0x1900, 0x9660720⟩ := by
  decide
theorem test_pdbl_to_zero : (after 0x40400000 (withF [(0, 1), (1, 1)])).map (·.readP 1) = some ⟨0, 1946656⟩ := by
  decide
/-- V-PT-7, V-PT-8. -/
theorem test_padd : (after 0x44804000 (withF [(0, 9), (1, 1), (2, 0x1900), (3, 0x9660720)])).map (·.readP 2) =
    some ⟨0x16112956BB61000, 0x3EE27BED76D439000⟩ := by decide
theorem test_padd_neutral :
    (after (encode (.padd 3 0 1 2)).toNat (withF [(0, 1), (2, 9), (3, 1), (4, 9), (5, 1)])).map (·.readP 3) =
      some ⟨324, 36⟩ := by decide
/-- 43_ladder.md R191. -/
theorem test_ldk : (after 0x600C0000 (withSlot 3 1 State.reset)).map (·.readSk) = some 1 := by decide
theorem test_ldk_all_ones : (after 0x60000000 (withSlot 0 (2 ^ 256 - 1) State.reset)).map (·.readSk) =
    some (2 ^ 256 - 1) := by decide
/-- V-LAD-3, V-LAD-2. -/
theorem test_clampk : (after 0x64000000 (withSlot 0 alice State.reset)).map (·.readSk) =
    some 0x6A2CB91DA5FB77B12A99C0EB872F4CDF4566B25172C1163C7DA518730A6D0770 := by decide
theorem test_clampk_ones : (after 0x64000000 (withSlot 0 (2 ^ 256 - 1) State.reset)).map (·.readSk) =
    some (2 ^ 255 - 8) := by decide
/-- V-LAD-1. -/
theorem test_stk : (after 0x68400000 (State.reset.writeSk (2 ^ 254))).map (·.readSlot 1) =
    some (List.replicate 31 0 ++ [0x40]) := by decide
/-- V-COD-1, and V-COD-2 for 2^256 - 1. -/
theorem test_ldf : (after 0x80040000 (withSlot 1 9 State.reset)).map (·.readF 0) = some 9 := by decide
theorem test_ldf_reduces : (after 0x80040000 (withSlot 1 (2 ^ 256 - 1) State.reset)).map (·.readF 0) = some 37 := by
  decide
/-- V-COD-3, and the host's view of 44_codec.md R223. -/
theorem test_stf : (after 0x84800000 (withF [(0, prime - 1)])).map (·.readSlot 2) =
    some ([0xEC] ++ List.replicate 30 0xFF ++ [0x7F]) := by decide
theorem test_stf_host : (after 0x84800000 (withF [(0, 9)])).map (fun t => (t.readValue 0x240, t.readValue 0x244)) =
    some (9, 0) := by decide
/-- V-COD-5, V-COD-10. -/
theorem test_pproj : (after 0x88500000 (withF [(4, 9)])).map (·.readP 1) = some ⟨9, 1⟩ := by decide
theorem test_pproj_own : (after (encode (.pproj 0 1)).toNat (withF [(0, 3), (1, 7)])).map (·.readP 0) = some ⟨7, 1⟩ := by
  decide
/-- V-COD-4. -/
theorem test_pinf : (after 0x8CC00000 State.reset).map (fun t => (t.readF 6, t.readF 7)) = some (1, 0) := by
  decide

/-! ### The host's side (V-ST) -/

/-- V-ST-2: accept, and the completion step. -/
theorem test_accept : (State.reset.hostWrite 0x00C 0xC4400000).statusWord = 1 := by decide
theorem test_complete : (after 0x1C000009 State.reset).map (·.statusWord) = some 2 := by decide
/-- V-ST-3, V-ST-4. -/
theorem test_drop_cmd : ((busy 0xC4400000).hostWrite 0x00C 0x1C000005).statusWord = 9 := by decide
theorem test_drop_ram : ((busy 0xC4400000).hostWrite 0x200 0xDEADBEEF).mem = [] ∧
    ((busy 0xC4400000).hostWrite 0x200 0xDEADBEEF).drop = true := by decide
/-- V-ST-6, V-ST-7. -/
theorem test_drop_in_error : (failed.hostWrite 0x00C 0x1C000001).statusWord = 0x0000010E := by decide
theorem test_clear_err : ((failed.hostWrite 0x00C 0x1C000001).hostWrite 0x008 4).statusWord = 0x0000000A := by decide
/-- V-ST-8. -/
theorem test_irq : ({ State.reset with done := true }.hostWrite 0x004 1).irq = true := by decide
/-- V-ST-9. -/
theorem test_soft_reset : ({ failed with ieErr := true }.hostWrite 0x004 0x80000000).block = State.reset := by
  decide
/-- V-ST-10. -/
theorem test_id : (State.reset.hostWrite 0x000 0x12345678).readValue 0x000 = 0x35353258 := by decide
/-- A word of operand RAM, little-endian (20_memory.md R84), written and overwritten by zero. -/
theorem test_ram_bytes : (State.reset.hostWrite 0x204 0x0A6D0077).mem = [(4, 0x77), (6, 0x6D), (7, 0x0A)] := by decide
theorem test_ram_zero : ((State.reset.hostWrite 0x204 0x0A6D0077).hostWrite 0x204 0).mem = [] := by decide
theorem test_ram_top : (State.reset.hostWrite 0x3FC 0x80000001).mem = [(508, 1), (511, 0x80)] := by decide
/-- V-ST-11: a hardware reset abandons the pending command. -/
theorem test_hardware_reset :
    step (withProgram [] [.reset] (busy 0x1C000009)) = .next State.reset := by rfl
/-- A byte access is recorded, and the run is refused (20_memory.md R81). -/
theorem test_byte_access :
    core.run 2 (withProgram [.access 0 { kind := .read, width := .byte }] [] State.reset) =
      .refused .nonContractAccess := by rfl
/-- L3-7, steps 1 and 4: the engine moves once nothing else is scheduled. -/
theorem test_wait_idle_polls :
    (withProgram [.waitIdle] [.host] (busy 0x1C000009)).hostStep.run.reads = [1] ∧
    (withProgram [.waitIdle] [.host] (busy 0x1C000009)).hostStep.run.program = [.waitIdle] := by decide
/-- With nothing launched the machine waits. -/
theorem test_idle : step State.reset = .next State.reset := by rfl
/-- The table's bits reach the decoder, and more than 32 bits are no command. -/
theorem test_table_word : decodeTableWord 32 0x04C48000 = some (.fadd 3 1 2) ∧ decodeTableWord 32 0 = none ∧
    decodeTableWord 40 0x104C48000 = none := by decide

/-! ### Witnesses: what meets the hypotheses of each statement -/

theorem test_witness_DecodeOfEncodeIsTheCommand :
    (Instr.padd 7 7 7 7).wellFormed = true ∧ (Instr.fldi 15 0x3FFFFF).wellFormed = true := by decide

theorem test_witness_EncodeOfDecodeIsTheWord : decode 0x1FFFFFFF = .ok (.fldi 15 0x3FFFFF) := by decide

theorem test_witness_DecodeIsTheOpcodeMapLookup :
    (⟨0x31, 0xC4000000, 0xFC03FFFF⟩ ∈ opcodeMap ∧ (0xC7FC0000 : Word) &&& 0xFC03FFFF = 0xC4000000) ∧
    (∀ r ∈ opcodeMap, (0xFFFFFFFF : Word) &&& r.mask ≠ r.pattern) := by decide

/-- For the clauses about words, EncodedBy, of the command statements: the last legal and the first illegal field. -/
theorem test_witness_encoding_clauses :
    (7#4 < 8 ∧ ¬8#4 < 8) ∧ (0#4 = 0 ∧ 0#10 = 0) ∧ ¬(0#4 = 0 ∧ 1#10 = 0) ∧ ¬(8#4 = 0 ∧ 0#10 = 0) := by decide

theorem test_witness_FinvWritesTheInverseOrRaises :
    let s := { withF [(1, prime - 1)] with pending := some 0x14040000 }
    (∀ j : Fin 16, s.readF j < prime) ∧ s.srcF 1 ≠ 0 ∧ s.srcF 0 = 0 ∧ s.pending = some 0x14040000 ∧
    (prime - 1) * s.srcF 1 % prime = 1 ∧ 1 ≤ prime - 1 ∧ prime - 1 < prime := by decide

theorem test_witness_InversionMethodIsNotObservable : 0 < prime - 1 ∧ prime - 1 < prime := by decide

theorem test_witness_DifferentialAdditionFormula :
    ((-2) * 10 : Int) = (((3 : Nat) : Int) - (5 : Nat)) * (((9 : Nat) : Int) + (1 : Nat)) ∧
    (8 * 8 : Int) = (((3 : Nat) : Int) + (5 : Nat)) * (((9 : Nat) : Int) - (1 : Nat)) := by decide

/-- For STK, STF, the key-agreement commands, their primitive sequence and RamWriteStoresOrDrops. -/
theorem test_witness_canonical_memory :
    Memory.wf (withSlot 15 (2 ^ 255) (withSlot 0 alice State.reset)).mem = true ∧
    Memory.read (withSlot 15 (2 ^ 255) State.reset).mem 511 = 0x80 := by decide

theorem test_witness_ClampForcesTheFiveBits :
    (le32 0).length = 32 ∧ (le32 (2 ^ 255 + 2 ^ 254 + 7)).length = 32 ∧
    ∀ k, k ∉ [0, 1, 2, 254, 255] →
      (leToNat (le32 (2 ^ 255 + 2 ^ 254 + 7))).testBit k = (leToNat (le32 0)).testBit k := by
  refine ⟨by decide, by decide, fun k hk => ?_⟩
  have e0 : leToNat (le32 0) = 0 := by decide
  have e1 : leToNat (le32 (2 ^ 255 + 2 ^ 254 + 7)) = 2 ^ 255 + 2 ^ 254 + 7 := by decide
  rw [e0, e1, Nat.zero_testBit]
  by_cases h : k < 256
  · have : ∀ k : Fin 256, k.val ∉ [0, 1, 2, 254, 255] → (2 ^ 255 + 2 ^ 254 + 7).testBit k.val = false := by
      decide +kernel
    exact this ⟨k, h⟩ hk
  · exact Nat.testBit_lt_two_pow (Nat.lt_of_lt_of_le (show 2 ^ 255 + 2 ^ 254 + 7 < 2 ^ 256 by decide)
      (Nat.pow_le_pow_right (by decide) (by omega)))

theorem test_witness_ScalarMulIsTheLadder :
    2 ^ 256 - 1 < 2 ^ 256 ∧ (2 ^ 256 - 1).testBit 255 = true ∧ (2 ^ 255).testBit 0 = false := by decide

theorem test_witness_DegenerateLadderInputs :
    (0 : Nat) < 2 ^ 256 ∧ 1 ≤ 2 ^ 256 - 1 ∧ (⟨0, 5⟩ : Point).x = 0 ∧ (⟨5, 0⟩ : Point).z = 0 := by decide

theorem test_witness_BytesToFieldAndBack :
    (le32 (prime - 1)).length = 32 ∧ leToNat (le32 (prime - 1)) < prime ∧
    prime ≤ leToNat (le32 prime) ∧ leToNat (le32 prime) < 2 * prime ∧
    prime ≤ leToNat (le32 (2 * prime - 1)) ∧ leToNat (le32 (2 * prime - 1)) < 2 * prime ∧
    2 * prime ≤ leToNat (le32 (2 * prime)) ∧ 2 * prime ≤ leToNat (le32 (2 ^ 256 - 1)) := by decide

theorem test_witness_ToCompressedDividesXByZ :
    (⟨prime - 1, 0⟩ : Point).z = 0 ∧ (⟨0, prime - 1⟩ : Point).z ≠ 0 ∧ prime - 1 < prime ∧ 0 < prime := by decide

theorem test_witness_PcompWritesTheAffineX :
    ((withF [(2, 5)]).srcP 1).z = 0 ∧ ((withF [(3, 5)]).srcP 1).z ≠ 0 := by decide

theorem test_witness_X25519bIsX25519OnTheBasePoint :
    leToNat ((withSlot 1 9 State.reset).srcS 1) % prime = 9 ∧
    leToNat ((withSlot 1 (2 * prime + 9) State.reset).srcS 1) % prime = 9 := by decide

theorem test_witness_CompletionStepEndsInOneOfThreeWays :
    (busy 0x42000000).pending = some 0x42000000 ∧ decode 0x42000000 = .error .pointIndex ∧
    decode 0x14040000 = .ok (.finv 0 1) ∧ (busy 0x14040000).srcF 1 = 0 ∧
    ({ withF [(1, 2)] with pending := some 0x14040000 } : State).srcF 1 ≠ 0 := by decide

theorem test_witness_InvertsZero : InvertsZero (.finv 0 1) (busy 0x14040000) ∧
    ¬InvertsZero (.fadd 0 1 2) (busy 0x04048000) :=
  ⟨⟨0, 1, rfl, by decide⟩, fun h => by obtain ⟨_, _, h, _⟩ := h; cases h⟩

theorem test_witness_WritersOfScalarAndConversionFlags :
    (∃ t, exec (.clampk 0) State.reset = .next t ∧ t.sk ≠ State.reset.sk) ∧
    (∃ t, exec (.pcomp 0 1) State.reset = .next t ∧ t.inf ≠ State.reset.inf) ∧
    (∃ t, exec (.x25519 2 0 1) State.reset = .next t ∧ t.zero ≠ State.reset.zero) :=
  ⟨⟨_, rfl, by decide⟩, ⟨_, rfl, by decide⟩, ⟨_, rfl, by decide +kernel⟩⟩

theorem test_witness_not_soft_reset : ¬IsSoftReset 0x004 0x7FFFFFFF ∧ ¬IsSoftReset 0x3FC 0xFFFFFFFF := by
  constructor <;> (rintro ⟨h1, h2⟩; revert h1 h2; decide)

theorem test_witness_ClearingErrAllowsCommandsAgain :
    (0xFFFFFFFF : Word).getLsbD 2 = true ∧ failed.pending = none ∧ failed.err = true := by decide

/-- The recorded error satisfies the invariant. -/
theorem test_failed_inv : failed.Inv :=
  ⟨by decide, by decide, by decide, fun _ => .inl ⟨rfl, .reservedBits, by decide⟩, by decide, by decide,
    by decide, by decide⟩

/-- So does a pending command. -/
theorem test_busy_inv : (busy 0x1C000009).Inv :=
  ⟨by decide, by decide, by decide, fun h => absurd h (by decide), by decide, by decide, by decide, by decide⟩

theorem test_witness_NoCommandIsAcceptedWhileErr :
    (withProgram [w32 0x00C 0x1C000001] [] failed).Inv ∧ (withProgram [w32 0x00C 0x1C000001] [] failed).err = true ∧
    ∃ t, step (withProgram [w32 0x00C 0x1C000001] [] failed) = .next t :=
  ⟨⟨test_failed_inv.1, test_failed_inv.2, test_failed_inv.3, test_failed_inv.4, test_failed_inv.5, test_failed_inv.6,
    test_failed_inv.7, test_failed_inv.8⟩, rfl, _, rfl⟩

theorem test_witness_EveryStepKeepsTheInvariant :
    (busy 0x1C000009).Inv ∧ ∃ t, step (busy 0x1C000009) = .next t ∧ t.readF 0 = 9 :=
  ⟨test_busy_inv, _, rfl, by decide⟩

theorem test_witness_InterruptFollowsTheEnabledSources :
    (∃ t, exec (.fldi 0 9) { busy 0x1C000009 with ieDone := true } = .next t) ∧
    (∃ t, raise .illegal 0 { busy 0 with ieErr := true } = .next t) ∧ State.reset.err = false :=
  ⟨⟨_, rfl⟩, ⟨_, rfl⟩, rfl⟩

theorem test_witness_ConstantAndReservedRegisters :
    0x018 ≤ (0x018#10).toNat ∧ (0x018#10).toNat % 4 = 0 ∧ (0x1FC#10).toNat ≤ 0x1FC ∧ (0x1FC#10).toNat % 4 = 0 := by
  decide

theorem test_witness_CtrlWriteSetsTheEnablesOrResets :
    (0x7FFFFFFF : Word).getLsbD 31 = false ∧ (0x80000000 : Word).getLsbD 31 = true := by decide

theorem test_witness_DropIsSetByDroppedWritesOnly :
    (0x3FC#10).toNat % 4 = 0 ∧ 0x200 ≤ (0x200#10).toNat ∧ (0x80000000 : Word).getLsbD 31 = true ∧
    ∃ t, completionStep { busy 0x1C000009 with drop := true } = .next t :=
  ⟨by decide, by decide, by decide, _, rfl⟩

theorem test_witness_CmdWriteIsAcceptedOrDropped :
    (busy 0).pending ≠ none ∧ failed.err = true ∧ State.reset.pending = none ∧ State.reset.err = false := by decide

theorem test_witness_RamWriteStoresOrDrops :
    (127 : Nat) < 128 ∧ (withSlot 0 alice (busy 0)).pending ≠ none ∧ (withSlot 0 alice State.reset).pending = none := by
  decide

theorem test_witness_RamWordsArePackedLittleEndian : (7 : Nat) < 8 ∧ (withSlot 15 alice State.reset).pending = none := by
  decide

theorem test_witness_HostReadsHaveNoSideEffect :
    State.reset.pending = none ∧ (0x1FC#10).toNat < 0x200 ∧ (busy 0).pending ≠ none ∧ 0x200 ≤ (0x200#10).toNat := by
  decide

theorem test_witness_PendingCommandIsUndisturbed :
    (busy 0xC4400000).pending = some 0xC4400000 ∧ ¬IsSoftReset 0x200 0xFFFFFFFF :=
  ⟨rfl, fun h => by revert h; unfold IsSoftReset; decide⟩

/-- DONE = 1 and an error, or nothing pending; the two cases of the premise. -/
theorem test_witness_StatusShowsCompletion :
    failed.Inv ∧ (failed.readValue 0x008).getLsbD 1 = true ∧ (failed.readValue 0x008).getLsbD 0 = false :=
  ⟨test_failed_inv, by decide, by decide⟩

theorem test_witness_WindowDecodesItsAddresses :
    (Config.base + 1024 < Config.base ∨ Config.base + 1024 ≤ Config.base + 1024) ∧
    (withProgram [.bus (Config.base + (0x3FC#10).toNat) { kind := .read }] [] State.reset).run.program =
      [.bus (Config.base + (0x3FC#10).toNat) { kind := .read }] := ⟨.inr (Nat.le_refl _), rfl⟩

theorem test_witness_HardwareResetStep :
    (withProgram [r32 0] [.reset, .host] failed).run.refused = false ∧
    (withProgram [r32 0] [.reset, .host] failed).run.schedule = .reset :: [.host] := by decide

theorem test_witness_StepRunsTheDecodedCommand :
    (busy 0x1C000009).run.refused = false ∧ (busy 0x1C000009).nextAgent = some .engine ∧
    (busy 0x1C000009).pending = some 0x1C000009 ∧ decode 0x1C000009 = .ok (.fldi 0 9) := by decide

theorem test_witness_NonContractAccessIsRefused :
    (withProgram [.access 2 { kind := .read, width := .byte, burst := true }] [] State.reset).run.refused = false ∧
    (withProgram [.access 2 { kind := .read, width := .byte, burst := true }] [] State.reset).nextAgent = some .host ∧
    Width.byte ≠ .word ∧ (2#10).toNat % 4 ≠ 0 ∧ (0x3FF#10).toNat % 4 ≠ 0 := by decide

theorem test_witness_WaitIdlePollsStatus :
    (withProgram [.waitIdle, r32 0] [.host] (busy 0)).run.program = .waitIdle :: [r32 0] ∧ (busy 0).pending ≠ none ∧
    (withProgram [.waitIdle, r32 0] [.host] State.reset).pending = none := by decide

theorem test_witness_RunRecordsAreNeverCleared :
    ∃ t, step (withProgram [r32 0] [] { failed with run := { failed.run with dropSeen := true, reads := [7] } }) = .next t ∧
      t.run.reads = [7, 0x35353258] := ⟨_, rfl, by decide⟩


/-! ### One step of each command that works on 255 or 256 bits, one at a time -/

/-- V-FLD-8, V-FLD-9. -/
theorem test_fpow : (after 0x10048000 (withF [(1, 2), (2, 255)])).map (·.readF 0) = some 19 := by decide +kernel
theorem test_fpow_zero : (after 0x10048000 State.reset).map (·.readF 0) = some 1 := by decide +kernel
/-- V-FLD-13, V-FLD-18. -/
theorem test_finv : (after 0x14040000 (withF [(1, 2)])).map (·.readF 0) =
    some 0x3FFFFFFFFFFFFFFFFFFFFFFFFFFFFFFFFFFFFFFFFFFFFFFFFFFFFFFFFFFFFFF7 := by decide +kernel
theorem test_finv_zero : (after 0x14400000 (withF [(1, 7)])).map (fun t => (t.readF 1, t.statusWord, t.errcmd)) =
    some (7, 0x00000206, 0x14400000) := by decide
/-- V-LAD-10, V-LAD-5. -/
theorem test_ladder : (after 0x6D000000 ((withF [(0, 9), (1, 1)]).writeSk 3)).map (·.readP 4) =
    some ⟨0x1B1FA7477F713E8FAC3B414E799EA7E03C2DC505AF2CAAD43D66BD20CAA7A755,
      0x7A6E917BC1CDCBB4AC0F71B1CC1E909EA5CF2D428B23EB69EE4A69CC18AACE62⟩ := by decide +kernel
theorem test_ladder_order : (after (encode (.ladder 1 0)).toNat ((withF [(0, 9), (1, 1)]).writeSk subgroupOrder)).map
    (fun t => (t.readP 1).z) = some 0 := by decide +kernel
/-- V-COD-9, V-COD-7. -/
theorem test_pcomp : (after 0x90040000 (withF [(2, 0x1900), (3, 0x9660720)])).map (fun t => (t.readF 0, t.inf)) =
    some (0x20D342D51873F1B7D9750C687D1571148F3F5CED1E350B5C5CAE469CDD684EFB, false) := by decide +kernel
theorem test_pcomp_infinity : (after 0x90040000 (withF [(0, 4), (2, 5)])).map (fun t => (t.readF 0, t.inf)) =
    some (0, true) := by decide
/-- V-API-3, V-API-5. -/
theorem test_x25519 : (after 0xC0804000 (withSlot 1
      0x4F2B886F147EFCAD4D67785BC843833F3735E4ECC2615BD3B4C17D7B7DDB9EDE (withSlot 0 alice State.reset))).map
    (fun t => (slotInt 2 t, t.statusWord)) =
    some (0x4217161E3C9BF076339ED147C9217EE0250F3580F43B8E72E12DCEA45B9D5D4A, 2) := by decide +kernel
theorem test_x25519_degenerate : (after 0xC0804000 (withSlot 2 1 (withSlot 0 alice State.reset))).map
    (fun t => (slotInt 2 t, t.statusWord)) = some (0, 0x32) := by decide +kernel
/-- V-API-1, V-API-11. -/
theorem test_x25519b : (after 0xC4400000 (withSlot 0 alice State.reset)).map
    (fun t => (slotInt 1 t, slotInt 0 t, t.statusWord)) =
    some (0x6A4E9BAA8EA9A4EBF41A38260D3ABF0D5AF73EB4DC7D8B7454A7308909F02085, alice, 2) := by decide +kernel
theorem test_x25519b_in_place : (after 0xC4000000 (withSlot 0 alice State.reset)).map (slotInt 0) =
    some 0x6A4E9BAA8EA9A4EBF41A38260D3ABF0D5AF73EB4DC7D8B7454A7308909F02085 := by decide +kernel

end Sys2Proof.Tests
end

section
/-! The scope of the machine: the hard-wired constants (00_scope.md R7, R8, R9), what a host read leaves behind, and one
poll of WAIT_IDLE (00_scope.md R18). -/

namespace Sys2Proof.Machine

/-! ### The hard-wired constants -/

theorem prime_eq_two_pow_sub : prime = 2 ^ 255 - 19 := by decide

theorem subgroupOrder_eq_hex :
    subgroupOrder = 0x1000000000000000000000000000000014DEF9DEA2F79CD65812631A5CF5D3ED := by decide

theorem curveAPlus2_eq : curveAPlus2 = 486664 := by decide

theorem curveAPlus2_div_four : curveAPlus2 / 4 = 121666 := by decide

/-- Settles O6: each constant is defined by one of the forms the spec gives, and the other forms are computed. -/
theorem hardwiredConstants : Obligations.HardwiredConstants :=
  ⟨⟨prime_eq_two_pow_sub, rfl⟩, rfl, rfl, rfl, rfl, subgroupOrder_eq_hex, curveAPlus2_eq, rfl, curveAPlus2_div_four⟩

/-! ### BUSY -/

theorem busy_eq_true_iff {s : State} : s.busy = true ↔ s.pending ≠ none := Option.isSome_iff_ne_none

theorem busy_eq_false_iff {s : State} : s.busy = false ↔ s.pending = none :=
  Option.isSome_eq_false_iff.trans Option.isNone_iff_eq_none

/-! ### What changes only the run leaves the block -/

@[simp] theorem recordRead_block (s : State) (v : Word) : (s.recordRead v).block = s.block := rfl
@[simp] theorem countDraw_block (s : State) : s.countDraw.block = s.block := rfl
@[simp] theorem popProgram_block (s : State) : s.popProgram.block = s.block := rfl

/-! ### What a host read leaves behind -/

section hostRead

variable (s : State) (off : Offset)

/-- A host read records its value, and a free draw is counted besides. -/
theorem hostRead_cases :
    (s.drawsAt off = true ∧ s.hostRead off = (s.recordRead (s.readValue off)).countDraw) ∨
    (s.drawsAt off = false ∧ s.hostRead off = s.recordRead (s.readValue off)) := by
  unfold State.hostRead
  cases s.drawsAt off with
  | true => exact .inl ⟨rfl, rfl⟩
  | false => exact .inr ⟨rfl, rfl⟩

@[simp] theorem hostRead_block : (s.hostRead off).block = s.block := by
  obtain ⟨-, h⟩ | ⟨-, h⟩ := hostRead_cases s off <;> simp [h]

@[simp] theorem hostRead_run_reads : (s.hostRead off).run.reads = s.run.reads ++ [s.readValue off] := by
  obtain ⟨-, h⟩ | ⟨-, h⟩ := hostRead_cases s off <;> simp [h]

@[simp] theorem hostRead_run_program : (s.hostRead off).run.program = s.run.program := by
  obtain ⟨-, h⟩ | ⟨-, h⟩ := hostRead_cases s off <;> simp [h]

end hostRead

/-! ### WAIT_IDLE -/

/-- One poll of WAIT_IDLE while BUSY reads 1: a read of STATUS, and the operation stays. -/
theorem hostStep_waitIdle_busy {s : State} {ops : List HostOp} (hp : s.run.program = .waitIdle :: ops)
    (hb : s.busy = true) : s.hostStep = s.hostRead 0x008 := by
  simp [State.hostStep, hp, hb]

/-- The last poll of WAIT_IDLE, which sees BUSY read 0: a read of STATUS, and the operation leaves the program. -/
theorem hostStep_waitIdle_idle {s : State} {ops : List HostOp} (hp : s.run.program = .waitIdle :: ops)
    (hb : s.busy = false) : s.hostStep = (s.hostRead 0x008).popProgram := by
  simp [State.hostStep, hp, hb]

/-- Settles O55, by cases on BUSY: either way the step is a read of STATUS, and it pops the program only when idle. -/
theorem waitIdlePollsStatus : Obligations.WaitIdlePollsStatus := by
  intro s ops hp
  cases hb : s.busy with
  | true =>
    have hpend : s.pending ≠ none := busy_eq_true_iff.1 hb
    rw [hostStep_waitIdle_busy hp hb]
    exact ⟨hostRead_block _ _, hostRead_run_reads _ _, fun _ => by rw [hostRead_run_program, hp],
      fun h => absurd h hpend⟩
  | false =>
    have hpend : s.pending = none := busy_eq_false_iff.1 hb
    rw [hostStep_waitIdle_idle hp hb]
    exact ⟨by simp, by simp, fun h => absurd hpend h, fun _ => by simp [hp]⟩

end Sys2Proof.Machine
end

section
/-! The state of the block (10_state.md): what a window offset selects, what a host write can do, how the registers of
the window read, the invariant of the machine, and who writes what. -/

namespace Sys2Proof.Machine

open Sys2Proof.Claims

/-! ### The register map (10_state.md R40) -/

/-- The upper half of the window is operand RAM (20_memory.md R84). -/
theorem getLsbD_nine_eq (off : Offset) : off.getLsbD 9 = decide (0x200 ≤ off.toNat) := by
  have := off.isLt
  rw [← BitVec.testBit_toNat, Nat.testBit_eq_decide_div_mod_eq, decide_eq_decide]
  omega

/-- From 0x200 on an offset selects the word of operand RAM it lies in. -/
theorem windowReg_eq_ram {off : Offset} (h : 0x200 ≤ off.toNat) :
    windowReg off = .ram ⟨(off.toNat - 0x200) / 4, by have := off.isLt; omega⟩ := by
  unfold windowReg
  split
  case h_7 =>
    have := off.isLt
    rw [getLsbD_nine_eq, if_pos (decide_eq_true h), WindowReg.ram.injEq, Fin.mk.injEq, BitVec.extractLsb'_toNat,
      Nat.shiftRight_eq_div_pow]
    omega
  all_goals simp at h

/-- The offset of word `k` selects word `k`. -/
theorem windowReg_ramOffset (k : Fin 128) : windowReg (BitVec.ofNat 10 (0x200 + 4 * k.val)) = .ram k := by
  have hk := k.isLt
  have hoff : (BitVec.ofNat 10 (0x200 + 4 * k.val)).toNat = 0x200 + 4 * k.val := by
    rw [BitVec.toNat_ofNat]
    omega
  rw [windowReg_eq_ram (by omega), WindowReg.ram.injEq, Fin.ext_iff]
  simp only [hoff]
  omega

/-- Between VERSION and operand RAM no register is selected (10_state.md R56). -/
theorem windowReg_eq_reserved {off : Offset} (hlo : 0x018 ≤ off.toNat) (hhi : off.toNat < 0x200) :
    windowReg off = .reserved := by
  unfold windowReg
  split
  case h_7 => rw [getLsbD_nine_eq, if_neg (by simpa using hhi)]
  all_goals simp at hlo

/-- The other offsets below operand RAM select a register that ignores writes. -/
theorem windowReg_of_readOnly {off : Offset} (h4 : off ≠ 0x004) (h8 : off ≠ 0x008) (hC : off ≠ 0x00C)
    (ho : off.toNat < 0x200) :
    windowReg off = .id ∨ windowReg off = .errcmd ∨ windowReg off = .version ∨ windowReg off = .reserved := by
  unfold windowReg
  split
  case h_1 => exact .inl rfl
  case h_2 => exact absurd rfl h4
  case h_3 => exact absurd rfl h8
  case h_4 => exact absurd rfl hC
  case h_5 => exact .inr (.inl rfl)
  case h_6 => exact .inr (.inr (.inl rfl))
  case h_7 => exact .inr (.inr (.inr (if_neg (by rw [getLsbD_nine_eq]; simpa using ho))))

/-! ### The host's writes, register by register -/

section hostWrite

variable (s : State) (v : Word)

theorem hostWrite_ctrl : s.hostWrite 0x004 v = s.writeCtrl v := rfl

theorem hostWrite_status : s.hostWrite 0x008 v = s.writeStatus v := rfl

theorem hostWrite_cmd : s.hostWrite 0x00C v = s.issue v := rfl

theorem writeStatus_eq : s.writeStatus v =
    { s with
      done := s.done && !v.getLsbD 1
      err := s.err && !v.getLsbD 2
      errcode := if v.getLsbD 2 then 0 else s.errcode
      errcmd := if v.getLsbD 2 then 0 else s.errcmd
      drop := s.drop && !v.getLsbD 3 } := rfl

/-- Outside CTRL, STATUS, CMD and operand RAM a write has no effect (10_state.md R41, R42, R51, R56). -/
theorem hostWrite_ignored {off : Offset} (h4 : off ≠ 0x004) (h8 : off ≠ 0x008) (hC : off ≠ 0x00C)
    (ho : off.toNat < 0x200) : s.hostWrite off v = s := by
  unfold State.hostWrite
  obtain h | h | h | h := windowReg_of_readOnly h4 h8 hC ho <;> rw [h]

theorem hostWrite_reserved {off : Offset} (hlo : 0x018 ≤ off.toNat) (hhi : off.toNat < 0x200) :
    s.hostWrite off v = s := by
  rw [State.hostWrite, windowReg_eq_reserved hlo hhi]

variable {s v}

theorem writeCtrl_softReset (h : v.getLsbD 31 = true) : s.writeCtrl v = s.resetBlock := if_pos h

theorem writeCtrl_enables (h : v.getLsbD 31 = false) :
    s.writeCtrl v = { s with ieDone := v.getLsbD 0, ieErr := v.getLsbD 1 } :=
  if_neg (by rw [h]; decide)

theorem issue_dropped (h : s.busy = true ∨ s.err = true) : s.issue v = s.dropWrite :=
  if_pos (by simpa using h)

theorem issue_accepted (hp : s.pending = none) (he : s.err = false) :
    s.issue v = { s with pending := some v, done := false } :=
  if_neg (by rw [busy_eq_false_iff.2 hp, he]; decide)

theorem writeRam_dropped (k : Fin 128) (h : s.busy = true) : s.writeRam k v = s.dropWrite := if_pos h

theorem writeRam_stored (k : Fin 128) (h : s.busy = false) :
    s.writeRam k v = { s with mem := Memory.writeBytes s.mem (4 * k.val) (wordBytes v) } :=
  if_neg (by rw [h]; decide)

end hostWrite

/-- What a host write of `v` at the offset `off` can answer: every case with its guard (10_state.md R41 to R56,
20_memory.md R86). -/
inductive HostWriteEffect (s : State) (off : Offset) (v : Word) : State → Prop
  | softReset (ho : off = 0x004) (hv : v.getLsbD 31 = true) : HostWriteEffect s off v s.resetBlock
  | enables (ho : off = 0x004) (hv : v.getLsbD 31 = false) :
      HostWriteEffect s off v { s with ieDone := v.getLsbD 0, ieErr := v.getLsbD 1 }
  | status (ho : off = 0x008) : HostWriteEffect s off v (s.writeStatus v)
  | cmdDropped (ho : off = 0x00C) (h : s.busy = true ∨ s.err = true) : HostWriteEffect s off v s.dropWrite
  | cmdAccepted (ho : off = 0x00C) (hp : s.pending = none) (he : s.err = false) :
      HostWriteEffect s off v { s with pending := some v, done := false }
  | ramDropped (ho : 0x200 ≤ off.toNat) (h : s.busy = true) : HostWriteEffect s off v s.dropWrite
  | ramStored (k : Fin 128) (ho : 0x200 ≤ off.toNat) (h : s.busy = false) :
      HostWriteEffect s off v { s with mem := Memory.writeBytes s.mem (4 * k.val) (wordBytes v) }
  | ignored (h8 : off ≠ 0x008#10) (hC : off ≠ 0x00C#10) (ho : off.toNat < 0x200) : HostWriteEffect s off v s

/-- A CTRL write by its bit 31. -/
theorem writeCtrl_effect (s : State) (v : Word) : HostWriteEffect s 0x004 v (s.writeCtrl v) := by
  cases hv : v.getLsbD 31 with
  | true => rw [writeCtrl_softReset hv]; exact .softReset rfl hv
  | false => rw [writeCtrl_enables hv]; exact .enables rfl hv

/-- A CMD write by BUSY and ERR. -/
theorem issue_effect (s : State) (v : Word) : HostWriteEffect s 0x00C v (s.issue v) := by
  by_cases h : s.busy = true ∨ s.err = true
  · rw [issue_dropped h]; exact .cmdDropped rfl h
  · obtain ⟨hb, he⟩ := not_or.1 h
    have hp : s.pending = none := busy_eq_false_iff.1 (Bool.eq_false_of_not_eq_true hb)
    rw [issue_accepted hp (Bool.eq_false_of_not_eq_true he)]
    exact .cmdAccepted rfl hp (Bool.eq_false_of_not_eq_true he)

/-- A write of operand RAM by BUSY. -/
theorem writeRam_effect (s : State) {off : Offset} (ho : 0x200 ≤ off.toNat) (k : Fin 128) (v : Word) :
    HostWriteEffect s off v (s.writeRam k v) := by
  cases hb : s.busy with
  | true => rw [writeRam_dropped k hb]; exact .ramDropped ho hb
  | false => rw [writeRam_stored k hb]; exact .ramStored k ho hb

/-- The first thing a proof about every host write needs. -/
theorem hostWrite_effect (s : State) (off : Offset) (v : Word) : HostWriteEffect s off v (s.hostWrite off v) := by
  by_cases hram : 0x200 ≤ off.toNat
  · rw [State.hostWrite, windowReg_eq_ram hram]
    exact writeRam_effect s hram _ v
  by_cases h4 : off = 0x004
  · subst h4
    exact writeCtrl_effect s v
  by_cases h8 : off = 0x008
  · subst h8
    exact .status rfl
  by_cases hC : off = 0x00C
  · subst hC
    exact issue_effect s v
  · rw [hostWrite_ignored s v h4 h8 hC (by omega)]
    exact .ignored h8 hC (by omega)

/-! ### How the registers of the window read -/

/-- The bits of a concatenation as one number. -/
theorem toNat_append_eq_add {m n : Nat} (x : BitVec m) (y : BitVec n) :
    (x ++ y).toNat = x.toNat * 2 ^ n + y.toNat := by
  rw [BitVec.toNat_append, ← Nat.shiftLeft_add_eq_or_of_lt y.isLt, Nat.shiftLeft_eq]

theorem statusWord_toNat (s : State) : s.statusWord.toNat =
    s.busy.toNat + 2 * s.done.toNat + 4 * s.err.toNat + 8 * s.drop.toNat + 16 * s.inf.toNat + 32 * s.zero.toNat +
      256 * s.errcode.toNat := by
  simp only [State.statusWord, toNat_append_eq_add, BitVec.toNat_ofBool, BitVec.toNat_ofNat]
  omega

theorem busy_toNat (s : State) : s.busy.toNat = if s.pending = none then 0 else 1 := by
  cases h : s.pending <;> simp [State.busy, h]

/-- Bit 0 of STATUS is BUSY. -/
theorem statusWord_bit_zero (s : State) : s.statusWord.getLsbD 0 = s.busy := by
  simp only [State.statusWord, BitVec.getLsbD_append, BitVec.getLsbD_ofBool]
  simp

/-- Bit 1 of STATUS is DONE. -/
theorem statusWord_bit_one (s : State) : s.statusWord.getLsbD 1 = s.done := by
  simp only [State.statusWord, BitVec.getLsbD_append, BitVec.getLsbD_ofBool]
  simp

theorem ctrlWord_toNat (s : State) : s.ctrlWord.toNat = s.ieDone.toNat + 2 * s.ieErr.toNat := by
  simp only [State.ctrlWord, toNat_append_eq_add, BitVec.toNat_ofBool, BitVec.toNat_ofNat]
  omega

theorem readValue_ctrl (s : State) : s.readValue 0x004 = s.ctrlWord := rfl

theorem readValue_status (s : State) : s.readValue 0x008 = s.statusWord := rfl

theorem readValue_reserved (s : State) {off : Offset} (hlo : 0x018 ≤ off.toNat) (hhi : off.toNat < 0x200) :
    s.readValue off = 0 := by
  rw [State.readValue, windowReg_eq_reserved hlo hhi]

/-- While the block is idle a word of operand RAM reads as its content (20_memory.md R87). -/
theorem readValue_ram_idle {s : State} (h : s.busy = false) (k : Fin 128) :
    s.readValue (BitVec.ofNat 10 (0x200 + 4 * k.val)) = Memory.readWord s.mem (4 * k.val) := by
  rw [State.readValue, windowReg_ramOffset]
  exact if_neg (by rw [h]; decide)

/-! ### The reset state (10_state.md R60) -/

theorem resetBlock_block (s : State) : s.resetBlock.block = State.reset.block := rfl

theorem reset_readF (i : Fin 16) : State.reset.readF i = 0 := by simp [State.readF, State.reset]

theorem reset_readP (n : Fin 8) : State.reset.readP n = ⟨0, 0⟩ := by simp [State.readP, reset_readF]

/-- Settles O51, field by field; both resets are resetBlock. -/
theorem resetState : Obligations.ResetState := by
  refine ⟨resetBlock_block, fun s v hv => ?_, reset_readF, reset_readP, rfl, fun _ => rfl,
    rfl, rfl, rfl, rfl, rfl, rfl, rfl, rfl, rfl, rfl, rfl, rfl, rfl⟩
  rw [hostWrite_ctrl, writeCtrl_softReset hv, resetBlock_block]

/-! ### What a host operation can answer -/

/-- What a host operation can answer: nothing, a read or a write of the contract, or only a record of the run
(20_memory.md R80, R81, 70_reset_and_hazards.md R335, R336). -/
inductive HostStepEffect (s : State) : State → Prop
  | stay : HostStepEffect s s
  | poll (off : Offset) : HostStepEffect s (s.hostRead off)
  | read (off : Offset) : HostStepEffect s (s.hostRead off).popProgram
  | write (off : Offset) (v : Word) : HostStepEffect s (s.hostWrite off v).popProgram
  | elsewhere : HostStepEffect s s.popProgram
  | refused : HostStepEffect s s.recordRefusal

theorem accessStep_effect (s : State) (off : Offset) (acc : Access) : HostStepEffect s (s.accessStep off acc) := by
  unfold State.accessStep
  split
  · cases acc.kind with
    | read => exact .read off
    | write v => exact .write off v
  · exact .refused

/-- The first thing a proof about every host operation needs. -/
theorem hostStep_effect (s : State) : HostStepEffect s s.hostStep := by
  unfold State.hostStep
  split
  · exact .stay
  · exact accessStep_effect s _ _
  · split
    · exact accessStep_effect s _ _
    · exact .elsewhere
  · split
    · exact .poll 0x008
    · exact .read 0x008

/-! ### The invariant: the block and two of the run's records -/

@[simp] theorem popSchedule_block (s : State) : s.popSchedule.block = s.block := rfl
@[simp] theorem recordRefusal_block (s : State) : s.recordRefusal.block = s.block := rfl

@[simp] theorem hostRead_run_errSeen (s : State) (off : Offset) : (s.hostRead off).run.errSeen = s.run.errSeen := by
  obtain ⟨-, h⟩ | ⟨-, h⟩ := hostRead_cases s off <;> simp [h]

@[simp] theorem hostRead_run_dropSeen (s : State) (off : Offset) :
    (s.hostRead off).run.dropSeen = s.run.dropSeen := by
  obtain ⟨-, h⟩ | ⟨-, h⟩ := hostRead_cases s off <;> simp [h]

/-- A state is its block and its run. -/
theorem eq_of_block_eq {s t : State} (h : t.block = s.block) : t = { s with run := t.run } :=
  congrArg (fun b : State => { b with run := t.run }) h

section Inv

variable {s t : State}

/-- The invariant speaks of the block, of errSeen and of dropSeen alone. -/
theorem inv_of_block_eq (hs : s.Inv) (hb : t.block = s.block) (he : t.run.errSeen = s.run.errSeen)
    (hd : t.run.dropSeen = s.run.dropSeen) : t.Inv := by
  rw [eq_of_block_eq hb]
  exact
    { field := hs.field, mem := hs.mem, noError := hs.noError, error := hs.error, failStop := hs.failStop
      notDone := hs.notDone
      dropSeen := fun h => hd.trans (hs.dropSeen h)
      errSeen := fun h => he.trans (hs.errSeen h) }

theorem resetBlock_inv (s : State) : s.resetBlock.Inv where
  field i := by rw [show s.resetBlock.readF i = 0 from reset_readF i]; exact prime_pos
  mem := rfl
  noError _ := ⟨rfl, rfl⟩
  error h := absurd h Bool.false_ne_true
  failStop h := absurd h Bool.false_ne_true
  notDone h := absurd rfl h
  dropSeen h := absurd h Bool.false_ne_true
  errSeen h := absurd h Bool.false_ne_true

/-! ### Each kind of step keeps the invariant -/

theorem popSchedule_inv (hs : s.Inv) : s.popSchedule.Inv := inv_of_block_eq hs (popSchedule_block s) rfl rfl

theorem popProgram_inv (hs : s.Inv) : s.popProgram.Inv := inv_of_block_eq hs (popProgram_block s) rfl rfl

theorem recordRefusal_inv (hs : s.Inv) : s.recordRefusal.Inv := inv_of_block_eq hs (recordRefusal_block s) rfl rfl

theorem hostRead_inv (hs : s.Inv) (off : Offset) : (s.hostRead off).Inv :=
  inv_of_block_eq hs (hostRead_block s off) (hostRead_run_errSeen s off) (hostRead_run_dropSeen s off)

/-- A dropped write sets DROP together with its record. -/
theorem dropWrite_inv (hs : s.Inv) : s.dropWrite.Inv :=
  { hs with dropSeen := fun _ => rfl }

/-- ERR goes with its record, and the other flags only fall. -/
theorem writeStatus_inv (hs : s.Inv) (v : Word) : (s.writeStatus v).Inv := by
  rw [writeStatus_eq]
  have herr : (s.err && !v.getLsbD 2) = true → s.err = true ∧ v.getLsbD 2 = false := by simp
  exact
    { field := hs.field
      mem := hs.mem
      noError := fun h => by
        cases hv : v.getLsbD 2 with
        | true => exact ⟨rfl, rfl⟩
        | false => exact hs.noError (by simpa only [hv, Bool.not_false, Bool.and_true] using h)
      error := fun h => by
        simp only [(herr h).2, Bool.false_eq_true, if_false]
        exact hs.error (herr h).1
      failStop := fun h => hs.failStop (herr h).1
      notDone := fun h => by simp [hs.notDone h]
      dropSeen := fun h => hs.dropSeen (Bool.and_eq_true _ _ ▸ h).1
      errSeen := fun h => hs.errSeen (herr h).1 }

/-- A host write keeps the invariant: an accept needs ERR = 0 and lowers DONE, a store writes whole words. -/
theorem hostWriteEffect_inv {off : Offset} {v : Word} (hs : s.Inv) (h : HostWriteEffect s off v t) : t.Inv := by
  cases h with
  | softReset => exact resetBlock_inv s
  | enables => exact { hs with }
  | status => exact writeStatus_inv hs v
  | cmdDropped => exact dropWrite_inv hs
  | cmdAccepted ho hp he =>
    exact { hs with failStop := fun h => absurd (h.symm.trans he) (by decide), notDone := fun _ => rfl }
  | ramDropped => exact dropWrite_inv hs
  | ramStored k => exact { hs with mem := wf_writeRamWord hs.mem k v }
  | ignored => exact hs

theorem hostWrite_inv (hs : s.Inv) (off : Offset) (v : Word) : (s.hostWrite off v).Inv :=
  hostWriteEffect_inv hs (hostWrite_effect s off v)

theorem hostStepEffect_inv (hs : s.Inv) (h : HostStepEffect s t) : t.Inv := by
  cases h with
  | stay => exact hs
  | poll off => exact hostRead_inv hs off
  | read off => exact popProgram_inv (hostRead_inv hs off)
  | write off v => exact popProgram_inv (hostWrite_inv hs off v)
  | elsewhere => exact popProgram_inv hs
  | refused => exact recordRefusal_inv hs

/-- Completion without error keeps the invariant: nothing is pending afterwards. -/
theorem complete_inv {u : State} (hs : s.Inv) (hu : CommandEffect s u) : u.finish.Inv where
  field := hu.field hs.field
  mem := hu.mem hs.mem
  noError h := by
    rw [finish_errcode, finish_errcmd, hu.errcode, hu.errcmd]
    exact hs.noError (hu.err ▸ h)
  error h := by
    rw [finish_errcode, finish_errcmd, hu.errcode, hu.errcmd]
    exact hs.error (hu.err ▸ h)
  failStop _ := rfl
  notDone h := absurd rfl h
  dropSeen h := by
    rw [finish_run, hu.run]
    exact hs.dropSeen (hu.drop ▸ h)
  errSeen h := by
    rw [finish_run, hu.run]
    exact hs.errSeen (hu.err ▸ h)

/-- The error entry keeps the invariant when its record describes the error. -/
theorem raise_inv {e : ErrorCause} {w : Word} (hs : s.Inv) (hw : DescribesError (errorCode e) w) :
    (s.recordError e w).finish.Inv where
  field := hs.field
  mem := hs.mem
  noError h := absurd h.symm Bool.false_ne_true
  error _ := hw
  failStop _ := rfl
  notDone h := absurd rfl h
  dropSeen := hs.dropSeen
  errSeen _ := rfl

theorem pendingWord_eq {w : Word} (hw : s.pending = some w) : s.pendingWord = w := by rw [State.pendingWord, hw]; rfl

theorem completionStep_inv {w : Word} (hs : s.Inv) (hw : s.pending = some w) (h : completionStep s = .next t) :
    t.Inv := by
  obtain ⟨⟨r, hr⟩, hraise⟩ | ⟨i, hi, hexec⟩ := completionStep_cases hw
  · rw [hraise] at h
    obtain rfl := raise_next h
    exact raise_inv hs (.inl ⟨rfl, r, hr⟩)
  · rw [hexec] at h
    obtain ⟨u, hu, hcomplete⟩ | ⟨d, a, rfl, -, hraise⟩ := exec_cases i s
    · rw [hcomplete] at h
      obtain rfl := complete_next h
      exact complete_inv hs hu
    · rw [hraise, pendingWord_eq hw] at h
      obtain rfl := raise_next h
      exact raise_inv hs (.inr ⟨rfl, d, a, hi⟩)

end Inv

/-- Settles O56: the reset state is its own reset. -/
theorem resetMeetsTheInvariant : Obligations.ResetMeetsTheInvariant := resetBlock_inv State.reset

/-- Settles O57, agent by agent. -/
theorem everyStepKeepsTheInvariant : Obligations.EveryStepKeepsTheInvariant := by
  intro s t hs h
  have hpop : s.popSchedule.Inv := popSchedule_inv hs
  obtain ⟨-, ⟨-, rfl⟩ | ⟨-, rfl⟩ | ⟨-, rfl⟩ | ⟨hagent, hstep⟩⟩ := step_next_cases h
  · exact hpop
  · exact resetBlock_inv _
  · exact hostStepEffect_inv hpop (hostStep_effect _)
  · obtain ⟨w, hw⟩ := Option.isSome_iff_exists.1 (busy_of_nextAgent_engine hagent)
    exact completionStep_inv hpop hw hstep

/-! ### Who writes SK, INF and ZERO -/

/-- The state a command can answer, by what it writes; SK, INF and ZERO are written by the commands named alone
(10_state.md R35, R37, R38). -/
inductive ExecEffect (i : Instr) (s : State) : State → Prop
  | field (j : Fin 16) (v : Nat) : ExecEffect i s (s.writeF j v).finish
  | point (n : Fin 8) (q : Point) : ExecEffect i s (s.writeP n q).finish
  | slot (j : Fin 16) (b : List Byte) : ExecEffect i s (s.writeSlot j b).finish
  | scalar (v : Nat) (hi : ∃ a, i = .ldk a ∨ i = .clampk a) : ExecEffect i s (s.writeSk v).finish
  | compressed (j : Fin 16) (v : Nat) (q : Point) (hi : ∃ d a, i = .pcomp d a) :
      ExecEffect i s ((s.writeF j v).setInf q).finish
  | agreement (d : Slot) (q : Point) (hi : (∃ d a b, i = .x25519 d a b) ∨ ∃ d a, i = .x25519b d a) :
      ExecEffect i s (s.agree d q).finish
  | error (e : ErrorCause) (w : Word) : ExecEffect i s (s.recordError e w).finish

/-- Every command answers a next state, and one of these. -/
theorem exec_effect (i : Instr) (s : State) : ∃ t, exec i s = .next t ∧ ExecEffect i s t := by
  cases i with
  | fadd d a b => exact ⟨_, exec_fadd s d a b, .field _ _⟩
  | fsub d a b => exact ⟨_, exec_fsub s d a b, .field _ _⟩
  | fmul d a b => exact ⟨_, exec_fmul s d a b, .field _ _⟩
  | fpow d a b => exact ⟨_, exec_fpow s d a b, .field _ _⟩
  | finv d a =>
    obtain ⟨-, h⟩ | ⟨-, h⟩ := execFinv_cases d a s
    · exact ⟨_, h, .error _ _⟩
    · exact ⟨_, h, .field _ _⟩
  | fmov d a => exact ⟨_, exec_fmov s d a, .field _ _⟩
  | fldi d imm => exact ⟨_, exec_fldi s d imm, .field _ _⟩
  | pdbl d a => exact ⟨_, exec_pdbl s d a, .point _ _⟩
  | padd d a b c => exact ⟨_, exec_padd s d a b c, .point _ _⟩
  | ldk a => exact ⟨_, exec_ldk s a, .scalar _ ⟨a, .inl rfl⟩⟩
  | clampk a => exact ⟨_, exec_clampk s a, .scalar _ ⟨a, .inr rfl⟩⟩
  | stk d => exact ⟨_, exec_stk s d, .slot _ _⟩
  | ladder d a => exact ⟨_, exec_ladder s d a, .point _ _⟩
  | ldf d a => exact ⟨_, exec_ldf s d a, .field _ _⟩
  | stf d a => exact ⟨_, exec_stf s d a, .slot _ _⟩
  | pproj d a => exact ⟨_, exec_pproj s d a, .point _ _⟩
  | pinf d => exact ⟨_, exec_pinf s d, .point _ _⟩
  | pcomp d a => exact ⟨_, exec_pcomp s d a, .compressed _ _ _ ⟨d, a, rfl⟩⟩
  | x25519 d a b => exact ⟨_, exec_x25519 s d a b, .agreement _ _ (.inl ⟨d, a, b, rfl⟩)⟩
  | x25519b d a => exact ⟨_, exec_x25519b s d a, .agreement _ _ (.inr ⟨d, a, rfl⟩)⟩

theorem exec_next_effect {i : Instr} {s t : State} (h : exec i s = .next t) : ExecEffect i s t := by
  obtain ⟨t', ht', heffect⟩ := exec_effect i s
  rw [h] at ht'
  cases ht'
  exact heffect

section ExecEffect

variable {i : Instr} {s t : State}

theorem execEffect_sk (h : ExecEffect i s t) : (∃ a, i = .ldk a ∨ i = .clampk a) ∨ t.sk = s.sk := by
  cases h with
  | scalar v hi => exact .inl hi
  | agreement d q hi => exact .inr (by rw [finish_sk, agree_sk])
  | _ => exact .inr rfl

theorem execEffect_inf (h : ExecEffect i s t) :
    ((∃ d a, i = .pcomp d a) ∨ (∃ d a b, i = .x25519 d a b) ∨ ∃ d a, i = .x25519b d a) ∨ t.inf = s.inf := by
  cases h with
  | compressed j v q hi => exact .inl (.inl hi)
  | agreement d q hi => exact .inl (.inr hi)
  | _ => exact .inr rfl

theorem execEffect_zero (h : ExecEffect i s t) :
    ((∃ d a b, i = .x25519 d a b) ∨ ∃ d a, i = .x25519b d a) ∨ t.zero = s.zero := by
  cases h with
  | agreement d q hi => exact .inl hi
  | _ => exact .inr rfl

theorem execEffect_drop (h : ExecEffect i s t) : t.drop = s.drop := by
  cases h with
  | agreement d q hi => rw [finish_drop, agree_drop]
  | _ => rfl

end ExecEffect

/-! ### What no host write but a soft reset changes -/

section HostWriteEffect

variable {s t : State} {off : Offset} {v : Word}

/-- SK, INF, ZERO and the field registers are beyond the host's reach (10_state.md R31). -/
theorem hostWriteEffect_frame (hr : ¬IsSoftReset off v) (h : HostWriteEffect s off v t) :
    t.sk = s.sk ∧ t.inf = s.inf ∧ t.zero = s.zero ∧ t.f = s.f := by
  cases h with
  | softReset ho hv => exact absurd ⟨ho, hv⟩ hr
  | _ => exact ⟨rfl, rfl, rfl, rfl⟩

/-- While a command is pending the two writes that would change it or its operands are no case (20_memory.md R98). -/
theorem hostWriteEffect_busy {w : Word} (hw : s.pending = some w) (hr : ¬IsSoftReset off v)
    (h : HostWriteEffect s off v t) : t.pending = some w ∧ t.mem = s.mem := by
  cases h with
  | softReset ho hv => exact absurd ⟨ho, hv⟩ hr
  | cmdAccepted ho hp he => rw [hw] at hp; cases hp
  | ramStored k ho hb => rw [busy_eq_false_iff.1 hb] at hw; cases hw
  | _ => exact ⟨hw, rfl⟩

/-- DROP after a host write, by what the write is (10_state.md R49). -/
theorem hostWriteEffect_drop (hr : ¬IsSoftReset off v) (h : HostWriteEffect s off v t) :
    t.drop = true ↔
      (s.drop = true ∧ ¬(off = 0x008 ∧ v.getLsbD 3 = true)) ∨
      (off = 0x00C ∧ (s.busy = true ∨ s.err = true)) ∨ (0x200 ≤ off.toNat ∧ s.busy = true) := by
  cases h with
  | softReset ho hv => exact absurd ⟨ho, hv⟩ hr
  | enables ho hv => subst ho; simp
  | status ho => subst ho; simp [writeStatus_eq]
  | cmdDropped ho h => exact iff_of_true rfl (.inr (.inl ⟨ho, h⟩))
  | cmdAccepted ho hp he => subst ho; simp [busy_eq_false_iff.2 hp, he]
  | ramDropped ho h => exact iff_of_true rfl (.inr (.inr ⟨ho, h⟩))
  | ramStored k ho hb =>
    have h8 : off ≠ 0x008#10 := by rintro rfl; simp at ho
    have hC : off ≠ 0x00C#10 := by rintro rfl; simp at ho
    simp [h8, hC, hb]
  | ignored h8 hC ho => simp [h8, hC, Nat.not_le.2 ho]

end HostWriteEffect

/-- Settles O35, by the frames of the commands and of the host's writes. -/
theorem writersOfScalarAndConversionFlags : Obligations.WritersOfScalarAndConversionFlags := by
  refine ⟨fun i s t h => ?_, fun s off v hr => hostWriteEffect_frame hr (hostWrite_effect s off v)⟩
  have heffect := exec_next_effect h
  exact ⟨(execEffect_sk heffect).resolve_right, (execEffect_inf heffect).resolve_right,
    (execEffect_zero heffect).resolve_right⟩

/-- Settles O48, by what a host write can do while the block is busy. -/
theorem pendingCommandIsUndisturbed : Obligations.PendingCommandIsUndisturbed := by
  intro s off v w hw hr
  have heffect := hostWrite_effect s off v
  obtain ⟨hpending, hmem⟩ := hostWriteEffect_busy hw hr heffect
  obtain ⟨hsk, -, -, hf⟩ := hostWriteEffect_frame hr heffect
  exact ⟨hpending, hmem, hf, hsk⟩

/-! ### DROP -/

theorem hostRead_drop (s : State) (off : Offset) : (s.hostRead off).drop = s.drop := by
  rw [eq_of_block_eq (hostRead_block s off)]

theorem completionStep_idle {s : State} (h : s.pending = none) : completionStep s = .next s := by
  rw [completionStep, h]

theorem completionStep_drop {s t : State} (h : completionStep s = .next t) : t.drop = s.drop := by
  cases hw : s.pending with
  | none =>
    rw [completionStep_idle hw] at h
    cases h
    rfl
  | some w =>
    obtain ⟨-, hraise⟩ | ⟨i, -, hexec⟩ := completionStep_cases hw
    · rw [hraise] at h
      obtain rfl := raise_next h
      rfl
    · exact execEffect_drop (exec_next_effect (hexec ▸ h))

/-- Settles O43; the equivalence needs no alignment. -/
theorem dropIsSetByDroppedWritesOnly : Obligations.DropIsSetByDroppedWritesOnly := by
  intro s
  refine ⟨fun off v _ hr => hostWriteEffect_drop hr (hostWrite_effect s off v), fun v hv => ?_, rfl, hostRead_drop s,
    fun t => completionStep_drop⟩
  rw [hostWrite_ctrl, writeCtrl_softReset hv]
  rfl

/-! ### The registers of the window -/

/-- Settles O40: none of these offsets is CTRL, STATUS, CMD or operand RAM. -/
theorem constantAndReservedRegisters : Obligations.ConstantAndReservedRegisters := by
  refine fun s off v => ⟨?_, ?_, ?_, fun hlo hhi _ => ?_⟩
  · rintro rfl
    exact ⟨rfl, rfl⟩
  · rintro rfl
    exact ⟨rfl, rfl⟩
  · rintro rfl
    exact ⟨rfl, rfl⟩
  · have hram : off.toNat < 0x200 := by omega
    exact ⟨readValue_reserved s hlo hram, hostWrite_reserved s v hlo hram⟩

/-- Settles O41, by bit 31 of the word. -/
theorem ctrlWriteSetsTheEnablesOrResets : Obligations.CtrlWriteSetsTheEnablesOrResets := by
  refine fun s v => ⟨fun hv => ?_, fun hv => ?_, ?_, rfl⟩
  · rw [hostWrite_ctrl, writeCtrl_enables hv]
  · rw [hostWrite_ctrl, writeCtrl_softReset hv]
    exact ⟨resetBlock_block s, resetBlock_run s⟩
  · rw [readValue_ctrl, ctrlWord_toNat]

/-- Settles O42: the read is the sum of the fields of STATUS, the write the three clears in one. -/
theorem statusReadsItsFieldsAndClearsOnOne : Obligations.StatusReadsItsFieldsAndClearsOnOne := by
  refine fun s v => ⟨?_, writeStatus_eq s v, rfl⟩
  rw [readValue_status, statusWord_toNat, busy_toNat]

/-- Settles O44, by the two guards of the accept. -/
theorem cmdWriteIsAcceptedOrDropped : Obligations.CmdWriteIsAcceptedOrDropped := by
  refine fun s w => ⟨fun h => ?_, fun hp he => ?_, rfl⟩
  · rw [hostWrite_cmd, issue_dropped (h.imp_left busy_eq_true_iff.2)]
    rfl
  · rw [hostWrite_cmd, issue_accepted hp he]

/-- Settles O37: a STATUS write with bit 2 removes the one obstacle to the accept, ERR. -/
theorem clearingErrAllowsCommandsAgain : Obligations.ClearingErrAllowsCommandsAgain := by
  intro s v w hv hp
  have herr : (s.writeStatus v).err = false := by simp only [writeStatus_eq, hv, Bool.not_true, Bool.and_false]
  rw [hostWrite_status, hostWrite_status, hostWrite_cmd, issue_accepted (s := s.writeStatus v) hp herr]
  exact ⟨herr, if_pos hv, if_pos hv, by simp [writeStatus_eq], rfl⟩

/-- Settles O49: under the invariant DONE = 1 excludes a pending command, so both readings of STATUS mean BUSY = 0. -/
theorem statusShowsCompletion : Obligations.StatusShowsCompletion := by
  intro s hs h
  rw [readValue_status, statusWord_bit_zero, statusWord_bit_one] at h
  have hidle : s.pending = none := by
    obtain hbusy | hdone := h
    · exact busy_eq_false_iff.1 hbusy
    · by_contra hp
      exact Bool.false_ne_true ((hs.notDone hp).symm.trans hdone)
  have hbusy : s.busy = false := busy_eq_false_iff.2 hidle
  exact ⟨hidle, fun h => Bool.false_ne_true (hbusy.symm.trans (busy_of_nextAgent_engine h)),
    readValue_ram_idle hbusy⟩

/-! ### The engine's step -/

/-- A format-R check that covers every point field of the command lets only a well-formed one pass. -/
theorem wellFormed_of_checkR {w : Word} {unused points : List (BitVec 4)} {i j : Instr}
    (hi : i.wellFormed = points.all PReg.ok) (h : checkR w unused points i = .ok j) : j.wellFormed = true := by
  obtain ⟨rfl, -, -, hpoints⟩ := checkR_ok h
  rw [hi]
  exact List.all_eq_true.2 hpoints

/-- The decoder answers well-formed commands only (30_encoding.md R117). -/
theorem wellFormed_of_decode {w : Word} {i : Instr} (h : decode w = .ok i) : i.wellFormed = true := by
  unfold decode at h
  split at h
  case h_7 => cases h; rfl
  case h_21 => cases h
  all_goals
    refine wellFormed_of_checkR ?_ h
    simp [Instr.wellFormed, Bool.and_assoc]

theorem completionStep_decoded {s : State} {w : Word} {i : Instr} (hw : s.pending = some w) (hi : decode w = .ok i) :
    completionStep s = exec i s := by
  simp [completionStep, hw, hi]

/-- Settles O53: the step is the completion step after popSchedule, which touches only the run. -/
theorem stepRunsTheDecodedCommand : Obligations.StepRunsTheDecodedCommand := by
  intro s w i hrun hagent hw hi
  refine ⟨wellFormed_of_decode hi, ?_, popSchedule_block s, rfl⟩
  rw [step_engine hrun hagent, completionStep_decoded (s := s.popSchedule) hw hi]

end Sys2Proof.Machine
end

section
/-! The memory of the block (20_memory.md): operand RAM as bytes, words and the integers of its slots, what a host read
leaves behind, the window on the bus, and the accesses outside the contract. -/

namespace Sys2Proof.Machine

/-! ### Operand RAM as words (20_memory.md R84, R86) -/

theorem wordBytes_getD (v : Word) {j : Nat} (hj : j < 4) : (wordBytes v).getD j 0 = v.extractLsb' (8 * j) 8 := by
  match j, hj with
  | 0, _ => rfl
  | 1, _ => rfl
  | 2, _ => rfl
  | 3, _ => rfl

/-- A byte read after a store of word `k`: the value's own byte inside the word, every other byte as before. -/
theorem read_writeRamWord {m : Memory} (hm : Memory.wf m = true) (k : Fin 128) (v : Word) (a : Nat) :
    Memory.read (Memory.writeBytes m (4 * k.val) (wordBytes v)) a =
      if 4 * k.val ≤ a ∧ a < 4 * k.val + 4 then v.extractLsb' (8 * (a - 4 * k.val)) 8 else Memory.read m a := by
  have hfits : 4 * k.val + (wordBytes v).length ≤ Memory.size := by
    have := k.isLt
    simp only [wordBytes_length, Memory.size]
    omega
  rw [Memory.read_writeBytes hm hfits, wordBytes_length]
  split
  · exact wordBytes_getD v (by omega)
  · rfl

theorem hostWrite_ram (s : State) (k : Fin 128) (v : Word) :
    s.hostWrite (BitVec.ofNat 10 (0x200 + 4 * k.val)) v = s.writeRam k v := by
  rw [State.hostWrite, windowReg_ramOffset]

/-- Settles O45, by BUSY: the write is `writeRam` of its word, which drops it or stores its four bytes. -/
theorem ramWriteStoresOrDrops : Obligations.RamWriteStoresOrDrops := by
  intro s k v hk hm
  rw [hostWrite_ram s ⟨k, hk⟩ v]
  refine ⟨fun hp => writeRam_dropped _ (busy_eq_true_iff.2 hp), fun hp => ?_⟩
  refine ⟨_, writeRam_stored _ (busy_eq_false_iff.2 hp), wf_writeRamWord hm _ v, fun j hj => ?_, fun a ha => ?_⟩
  · rw [read_writeRamWord hm, if_pos (by dsimp only; omega), Nat.add_sub_cancel_left]
  · rw [read_writeRamWord hm, if_neg (by dsimp only; omega)]

/-! ### Operand RAM as the integers of its slots (20_memory.md R84) -/

theorem Memory.readBytes_add (m : Memory) (a k n : Nat) :
    Memory.readBytes m a (k + n) = Memory.readBytes m a k ++ Memory.readBytes m (a + k) n := by
  induction k generalizing a with
  | zero => simp [Memory.readBytes]
  | succ k ih =>
    rw [Nat.add_right_comm, Memory.readBytes, ih, Memory.readBytes, List.cons_append, Nat.add_right_comm a 1 k,
      Nat.add_assoc a k 1]

theorem leToNat_append (bs cs : List Byte) : leToNat (bs ++ cs) = leToNat bs + 256 ^ bs.length * leToNat cs := by
  induction bs with
  | nil => simp [leToNat]
  | cons b bs ih =>
    rw [List.cons_append, leToNat, leToNat, ih, List.length_cons]
    ring

/-- A run of bytes inside a byte string is a digit of its integer. -/
theorem leToNat_readBytes_div_mod (m : Memory) (a k n r : Nat) :
    leToNat (Memory.readBytes m a (k + (n + r))) / 256 ^ k % 256 ^ n = leToNat (Memory.readBytes m (a + k) n) := by
  have hlow := leToNat_lt (Memory.readBytes m a k)
  have hmid := leToNat_lt (Memory.readBytes m (a + k) n)
  simp only [Memory.readBytes_length] at hlow hmid
  rw [Memory.readBytes_add, Memory.readBytes_add, leToNat_append, leToNat_append, Memory.readBytes_length,
    Memory.readBytes_length, Nat.add_mul_div_left _ _ (by positivity), Nat.div_eq_of_lt hlow, Nat.zero_add,
    Nat.add_mul_mod_self_left, Nat.mod_eq_of_lt hmid]

theorem readWord_toNat (m : Memory) (a : Nat) :
    (Memory.readWord m a).toNat =
      (Memory.read m a).toNat + 2 ^ 8 * (Memory.read m (a + 1)).toNat + 2 ^ 16 * (Memory.read m (a + 2)).toNat +
        2 ^ 24 * (Memory.read m (a + 3)).toNat := by
  simp only [Memory.readWord, toNat_append_eq_add]
  omega

/-- A word of operand RAM is the integer of its four bytes. -/
theorem leToNat_readBytes_four (m : Memory) (a : Nat) :
    leToNat (Memory.readBytes m a 4) = (Memory.readWord m a).toNat := by
  rw [readWord_toNat]
  simp only [Memory.readBytes, leToNat, Nat.add_assoc, Nat.reduceAdd]
  omega

/-- Word `j` of a slot is bits 32j+31 to 32j of the slot's integer. -/
theorem leToNat_readSlot_div_mod (s : State) (i : Fin 16) {j : Nat} (hj : j < 8) :
    leToNat (s.readSlot i) / 2 ^ (32 * j) % 2 ^ 32 = (Memory.readWord s.mem (32 * i.val + 4 * j)).toNat := by
  have hslot : s.readSlot i = Memory.readBytes s.mem (32 * i.val) (4 * j + (4 + (28 - 4 * j))) := by
    rw [State.readSlot]
    congr 1
    omega
  have hpow : 2 ^ (32 * j) = 256 ^ (4 * j) := by rw [show 32 * j = 8 * (4 * j) by omega, pow_mul]; rfl
  rw [hslot, hpow, ← leToNat_readBytes_four]
  exact leToNat_readBytes_div_mod _ _ _ 4 _

/-- Settles O46: word `j` of slot `i` is word `8i + j` of operand RAM. -/
theorem ramWordsArePackedLittleEndian : Obligations.RamWordsArePackedLittleEndian := by
  intro s i j hj hp
  have hread : s.readValue (BitVec.ofNat 10 (0x200 + 32 * i.val + 4 * j)) =
      Memory.readWord s.mem (32 * i.val + 4 * j) := by
    have h := readValue_ram_idle (busy_eq_false_iff.2 hp) ⟨8 * i.val + j, by omega⟩
    rwa [show 4 * (8 * i.val + j) = 32 * i.val + 4 * j by omega, ← Nat.add_assoc] at h
  rw [hread]
  exact ⟨readWord_toNat _ _, (leToNat_readSlot_div_mod s i hj).symm⟩

/-! ### Free draws and repeated reads (20_memory.md R87, R89) -/

theorem drawsAt_ram (s : State) {off : Offset} (ho : 0x200 ≤ off.toNat) : s.drawsAt off = s.busy := by
  rw [State.drawsAt, windowReg_eq_ram ho]

theorem drawsAt_register (s : State) {off : Offset} (ho : off.toNat < 0x200) : s.drawsAt off = false := by
  by_cases h4 : off = 0x004
  · subst h4
    rfl
  by_cases h8 : off = 0x008
  · subst h8
    rfl
  by_cases hC : off = 0x00C
  · subst hC
    rfl
  · unfold State.drawsAt
    obtain h | h | h | h := windowReg_of_readOnly h4 h8 hC ho <;> rw [h]

theorem drawsAt_idle {s : State} (h : s.busy = false) (off : Offset) : s.drawsAt off = false := by
  by_cases ho : 0x200 ≤ off.toNat
  · rw [drawsAt_ram s ho, h]
  · exact drawsAt_register s (by omega)

/-- Where no value is drawn, the value read is a function of the block alone. -/
theorem readValue_of_block_eq {s t : State} {off : Offset} (hb : t.block = s.block) (hd : s.drawsAt off = false) :
    t.readValue off = s.readValue off := by
  rw [eq_of_block_eq hb]
  unfold State.drawsAt at hd
  unfold State.readValue
  cases hw : windowReg off with
  | ram k =>
    have hbusy : s.busy = false := by rwa [hw] at hd
    have hbusy' : State.busy { s with run := t.run } = false := hbusy
    simp only [hbusy, hbusy', Bool.false_eq_true, if_false]
  | _ => rfl

theorem hostRead_draws {s : State} {off : Offset} (h : s.drawsAt off = true) :
    (s.hostRead off).run.draws = s.run.draws + 1 := by
  rw [State.hostRead, if_pos h]
  rfl

/-- Settles O47: the block is kept, so only a free draw can read differently the second time. -/
theorem hostReadsHaveNoSideEffect : Obligations.HostReadsHaveNoSideEffect := by
  intro s off
  refine ⟨hostRead_block s off, hostRead_run_reads s off, fun h => ?_, fun hp ho => ?_⟩
  · refine readValue_of_block_eq (hostRead_block s off) ?_
    obtain hp | ho := h
    · exact drawsAt_idle (busy_eq_false_iff.2 hp) off
    · exact drawsAt_register s ho
  · exact hostRead_draws ((drawsAt_ram s ho).trans (busy_eq_true_iff.2 hp))

/-! ### The window on the bus (20_memory.md R80) -/

theorem windowOffset_base_add (off : Offset) : windowOffset (Config.base + off.toNat) = some off := by
  have := off.isLt
  rw [windowOffset, if_pos (by omega), Nat.add_sub_cancel_left, BitVec.ofNat_toNat, BitVec.setWidth_eq]

theorem windowOffset_outside {addr : Nat} (h : addr < Config.base ∨ Config.base + 1024 ≤ addr) :
    windowOffset addr = none :=
  if_neg (by omega)

theorem hostStep_access {s : State} {off : Offset} {acc : Access} {ops : List HostOp}
    (hp : s.run.program = .access off acc :: ops) : s.hostStep = s.accessStep off acc := by
  simp only [State.hostStep, hp]

theorem hostStep_bus {s : State} {addr : Nat} {off : Offset} {acc : Access} {ops : List HostOp}
    (hp : s.run.program = .bus addr acc :: ops) (ho : windowOffset addr = some off) :
    s.hostStep = s.accessStep off acc := by
  simp only [State.hostStep, hp, ho]

/-- Settles O50, from the two answers of `windowOffset`. -/
theorem windowDecodesItsAddresses : Obligations.WindowDecodesItsAddresses :=
  ⟨Nat.mul_mod_right 1024 Config.window, windowOffset_base_add, fun _ => windowOffset_outside,
    fun _ off _ _ hp => hostStep_bus hp (windowOffset_base_add off)⟩

/-! ### Accesses outside the contract (20_memory.md R81) -/

theorem contractAccess_eq_false {off : Offset} {acc : Access}
    (h : acc.width ≠ .word ∨ acc.burst = true ∨ off.toNat % 4 ≠ 0) : contractAccess off acc = false := by
  unfold contractAccess
  obtain h | h | h := h <;> simp [h]

theorem accessStep_refused (s : State) {off : Offset} {acc : Access} (h : contractAccess off acc = false) :
    s.accessStep off acc = s.recordRefusal :=
  if_neg (by rw [h]; decide)

/-- Settles O54: the step ends in `recordRefusal`, which leaves the block and stops the run. -/
theorem nonContractAccessIsRefused : Obligations.NonContractAccessIsRefused := by
  intro s off acc ops hrun hagent hprogram hacc
  have hstep : step s = .next s.popSchedule.recordRefusal := by
    rw [step_host hrun hagent, hostStep_access (s := s.popSchedule) hprogram,
      accessStep_refused _ (contractAccess_eq_false hacc)]
  exact ⟨_, hstep, by simp, rfl, step_refused rfl⟩

end Sys2Proof.Machine
end

section
/-! The command encoding (30_encoding.md): the encoder and the decoder are inverse to each other on well-formed
commands, decoding is the look-up in the opcode map, and the legal words are counted row by row. -/

namespace Sys2Proof

/-! ### Encoding and decoding back (30_encoding.md R111 to R113, R117) -/

theorem checkR_eq_ok_iff {w : Word} {unused points : List (BitVec 4)} {i j : Instr} :
    checkR w unused points i = .ok j ↔
      i = j ∧ rsvField w = 0 ∧ (∀ u ∈ unused, u = 0) ∧ ∀ q ∈ points, PReg.ok q = true := by
  constructor
  · intro h
    obtain ⟨rfl, hchecks⟩ := checkR_ok h
    exact ⟨rfl, hchecks⟩
  · rintro ⟨rfl, hrsv, hunused, hpoints⟩
    exact checkR_pass i hrsv hunused hpoints

/-- Settles O2, by the constructors of the command: the fields of its word are its operands, so only the point operands
leave the decoder something to check, which is what well-formedness says of them. -/
theorem decodeOfEncodeIsTheCommand : Obligations.DecodeOfEncodeIsTheCommand := by
  intro i hi
  cases i
  case pdbl | padd | ladder | pproj | pinf | pcomp =>
    simpa [encode, decode, checkR_eq_ok_iff, Instr.wellFormed, and_assoc] using hi
  all_goals simp [encode, decode, checkR_eq_ok_iff]

/-- A format-R word whose reserved bits are 0 is its opcode and operand fields, packed. -/
theorem packR_fields_of_rsv {w : Word} (h : rsvField w = 0) :
    packR (opField w) (dField w) (aField w) (bField w) (cField w) 0 = w := by
  rw [← h, packR_fields]

/-- The fields a format-R command does not use are 0 once its check has passed, so the encoder's zeros put them back. -/
theorem encode_of_decode {w : Word} {i : Instr} (h : decode w = .ok i) : encode i = w := by
  unfold decode at h
  split at h
  case h_7 hop =>
    cases h
    have hw := packI_fields w
    rwa [hop] at hw
  case h_21 => cases h
  all_goals
    rename_i hop
    obtain ⟨rfl, hrsv, hunused, -⟩ := checkR_ok h
    have hw := packR_fields_of_rsv hrsv
    simp only [hop, List.forall_mem_cons] at hw hunused
    simpa [encode, hunused] using hw

/-- Settles O3, from `encode_of_decode` and `wellFormed_of_decode`. -/
theorem encodeOfDecodeIsTheWord : Obligations.EncodeOfDecodeIsTheWord :=
  fun _ _ h => ⟨encode_of_decode h, Machine.wellFormed_of_decode h⟩

/-! ### The opcode map (30_encoding.md R115, R118) -/

/-- A word is its format-R fields. -/
theorem word_eq_iff (v w : Word) : v = w ↔ opField v = opField w ∧ dField v = dField w ∧ aField v = aField w ∧
    bField v = bField w ∧ cField v = cField w ∧ rsvField v = rsvField w := by
  constructor
  · rintro rfl
    simp
  · rintro ⟨hop, hd, ha, hb, hc, hrsv⟩
    rw [← packR_fields v, hop, hd, ha, hb, hc, hrsv, packR_fields]

section masked

variable (v w : Word)

theorem opField_and : opField (v &&& w) = opField v &&& opField w := BitVec.extractLsb'_and
theorem dField_and : dField (v &&& w) = dField v &&& dField w := BitVec.extractLsb'_and
theorem aField_and : aField (v &&& w) = aField v &&& aField w := BitVec.extractLsb'_and
theorem bField_and : bField (v &&& w) = bField v &&& bField w := BitVec.extractLsb'_and
theorem cField_and : cField (v &&& w) = cField v &&& cField w := BitVec.extractLsb'_and
theorem rsvField_and : rsvField (v &&& w) = rsvField v &&& rsvField w := BitVec.extractLsb'_and

end masked

/-- A row of the map by the bits its mask covers in each field: in an operand field none (0), bit 3 of a point index (8)
or all four of an unused field (15), and in the reserved bits all ten, but none for FLDI (30_encoding.md R115). -/
def fieldRow (op : BitVec 6) (d a b c : BitVec 4) (rsv : BitVec 10) : OpcodeRow :=
  ⟨op, packR op 0 0 0 0 0, packR (BitVec.allOnes 6) d a b c rsv⟩

theorem opcodeMap_eq_fieldRows : opcodeMap =
    [fieldRow 0x01 0 0 0 15 1023, fieldRow 0x02 0 0 0 15 1023, fieldRow 0x03 0 0 0 15 1023,
     fieldRow 0x04 0 0 0 15 1023, fieldRow 0x05 0 0 15 15 1023, fieldRow 0x06 0 0 15 15 1023,
     fieldRow 0x07 0 0 0 0 0, fieldRow 0x10 8 8 15 15 1023, fieldRow 0x11 8 8 8 8 1023,
     fieldRow 0x18 15 0 15 15 1023, fieldRow 0x19 15 0 15 15 1023, fieldRow 0x1A 0 15 15 15 1023,
     fieldRow 0x1B 8 8 15 15 1023, fieldRow 0x20 0 0 15 15 1023, fieldRow 0x21 0 0 15 15 1023,
     fieldRow 0x22 8 0 15 15 1023, fieldRow 0x23 8 15 15 15 1023, fieldRow 0x24 0 8 15 15 1023,
     fieldRow 0x30 0 0 0 15 1023, fieldRow 0x31 0 0 15 15 1023] := by
  decide

/-- A row constrains each field of the word by itself. -/
theorem matches_fieldRow_iff (w : Word) (op : BitVec 6) (d a b c : BitVec 4) (rsv : BitVec 10) :
    w &&& (fieldRow op d a b c rsv).mask = (fieldRow op d a b c rsv).pattern ↔
      opField w = op ∧ dField w &&& d = 0 ∧ aField w &&& a = 0 ∧ bField w &&& b = 0 ∧ cField w &&& c = 0 ∧
        rsvField w &&& rsv = 0 := by
  rw [fieldRow, word_eq_iff, opField_and, dField_and, aField_and, bField_and, cField_and, rsvField_and]
  simp [-BitVec.reduceAllOnes]

@[simp] theorem and_eight_eq_zero_iff : ∀ q : BitVec 4, q &&& 8#4 = 0#4 ↔ PReg.ok q = true := by decide

@[simp] theorem and_fifteen (x : BitVec 4) : x &&& 15#4 = x := BitVec.and_allOnes

@[simp] theorem and_1023 (x : BitVec 10) : x &&& 1023#10 = x := BitVec.and_allOnes

/-- The decoder's answer: the command the opcode names, if a row of the map matches the word. By the opcode, which
leaves one row of the map; what that row asks of the other fields is what the decoder checks. -/
theorem decode_eq_ok_iff {w : Word} {i : Instr} :
    decode w = .ok i ↔
      Claims.commandOf (opField w) w = some i ∧ ∃ r ∈ opcodeMap, w &&& r.mask = r.pattern := by
  simp only [opcodeMap_eq_fieldRows, List.mem_cons, List.not_mem_nil, exists_eq_or_imp, false_and, exists_false,
    matches_fieldRow_iff]
  unfold decode Claims.commandOf
  split
  case h_21 => simp [*]   -- a reserved opcode: no command, no row
  all_goals
    rename_i hop
    simp [hop, checkR_eq_ok_iff, and_assoc, and_comm, and_left_comm]

theorem commandOf_isSome (w : Word) : ∀ r ∈ opcodeMap, ∃ i, Claims.commandOf r.op w = some i := by
  simp [opcodeMap, Claims.commandOf]

/-- Every mask covers the whole opcode field, so only the row of the word's opcode can match it. -/
theorem op_eq_of_match {r : OpcodeRow} {w : Word} (hr : r ∈ opcodeMap) (h : w &&& r.mask = r.pattern) :
    r.op = opField w := by
  have hcover : ∀ r ∈ opcodeMap, opField r.mask = BitVec.allOnes 6 ∧ opField r.pattern = r.op := by decide
  obtain ⟨hmask, hpattern⟩ := hcover r hr
  rw [← hpattern, ← h, opField_and, hmask, BitVec.and_allOnes]

theorem eq_of_match {r r' : OpcodeRow} {w : Word} (hr : r ∈ opcodeMap) (hr' : r' ∈ opcodeMap)
    (h : w &&& r.mask = r.pattern) (h' : w &&& r'.mask = r'.pattern) : r = r' := by
  have hinj : ∀ r ∈ opcodeMap, ∀ r' ∈ opcodeMap, r.op = r'.op → r = r' := by decide
  exact hinj r hr r' hr' ((op_eq_of_match hr h).trans (op_eq_of_match hr' h').symm)

theorem decode_of_match {r : OpcodeRow} {w : Word} (hr : r ∈ opcodeMap) (h : w &&& r.mask = r.pattern) :
    ∃ i, Claims.commandOf r.op w = some i ∧ decode w = .ok i := by
  obtain ⟨i, hi⟩ := commandOf_isSome w r hr
  exact ⟨i, hi, decode_eq_ok_iff.2 ⟨op_eq_of_match hr h ▸ hi, r, hr, h⟩⟩

/-- Settles O4, from `decode_eq_ok_iff`: the opcode picks the row, which then decides. -/
theorem decodeIsTheOpcodeMapLookup : Obligations.DecodeIsTheOpcodeMapLookup := by
  intro w
  refine ⟨fun r hr => decode_of_match hr, fun hnone => ?_, fun r hr r' hr' => eq_of_match hr hr'⟩
  cases hd : decode w with
  | error e => exact ⟨e, rfl⟩
  | ok i =>
    obtain ⟨-, r, hr, h⟩ := decode_eq_ok_iff.1 hd
    exact absurd h (hnone r hr)

/-! ### The number of legal words (30_encoding.md R116) -/

/-- A bit vector is its bits. -/
def bitsEquiv (n : Nat) : BitVec n ≃ (Fin n → Bool) where
  toFun x i := x[i]
  invFun := BitVec.ofFnLE
  left_inv x := by ext i hi; simp
  right_inv f := by ext i; simp

/-- The number of bits a mask leaves free. -/
def freeBits {n : Nat} (m : BitVec n) : Nat := (Finset.univ.filter fun i : Fin n => m[i] = false).card

/-- One bit of the word, where the mask's bit is `b` and the pattern's bit is `c`. -/
theorem card_bit_and_eq {b c : Bool} (h : (c && b) = c) :
    Nat.card {x : Bool // (x && b) = c} = if b = false then 2 else 1 := by
  rw [Nat.card_eq_fintype_card]
  revert b c
  decide

/-- A mask and a pattern within it admit 2^(number of free bits) words: each bit is chosen by itself. -/
theorem card_and_eq {n : Nat} {m p : BitVec n} (h : p &&& m = p) :
    Nat.card {w : BitVec n // w &&& m = p} = 2 ^ freeBits m := by
  have hbit (i : Fin n) : (p[i] && m[i]) = p[i] := by
    rw [Fin.getElem_fin, Fin.getElem_fin, ← BitVec.getElem_and, h]
  have e : {w : BitVec n // w &&& m = p} ≃ ∀ i : Fin n, {x : Bool // (x && m[i]) = p[i]} :=
    ((bitsEquiv n).subtypeEquiv fun w => by
      simp [bitsEquiv, BitVec.eq_of_getElem_eq_iff, Fin.forall_iff]).trans Equiv.subtypePiEquivPi
  calc Nat.card {w : BitVec n // w &&& m = p}
      = ∏ i : Fin n, if m[i] = false then 2 else 1 := by
        rw [Nat.card_congr e, Nat.card_pi]
        exact Finset.prod_congr rfl fun i _ => card_bit_and_eq (hbit i)
    _ = 2 ^ freeBits m := by
        rw [← Finset.prod_filter, Finset.prod_const, freeBits]

/-- The words a row of the opcode map matches. -/
def OpcodeRow.words (r : OpcodeRow) : Finset Word := Finset.univ.filter fun w => w &&& r.mask = r.pattern

theorem OpcodeRow.mem_words {r : OpcodeRow} {w : Word} : w ∈ r.words ↔ w &&& r.mask = r.pattern := by
  simp [OpcodeRow.words]

/-- A row admits 2^(number of free bits) words (30_encoding.md R116). -/
theorem OpcodeRow.card_words {r : OpcodeRow} (hr : r ∈ opcodeMap) : r.words.card = 2 ^ freeBits r.mask := by
  have hwithin : ∀ r ∈ opcodeMap, r.pattern &&& r.mask = r.pattern := by decide
  rw [← card_and_eq (hwithin r hr)]
  exact (Nat.subtype_card r.words fun _ => mem_words).symm

theorem exists_decode_iff {w : Word} :
    (∃ i, decode w = .ok i) ↔ w ∈ opcodeMap.toFinset.biUnion OpcodeRow.words := by
  simp only [Finset.mem_biUnion, List.mem_toFinset, OpcodeRow.mem_words]
  constructor
  · rintro ⟨i, hi⟩
    exact (decode_eq_ok_iff.1 hi).2
  · rintro ⟨r, hr, h⟩
    obtain ⟨i, -, hi⟩ := decode_of_match hr h
    exact ⟨i, hi⟩

theorem opcodeMap_words_disjoint :
    (opcodeMap.toFinset : Set OpcodeRow).PairwiseDisjoint OpcodeRow.words := by
  intro r hr r' hr' hne
  rw [Finset.mem_coe, List.mem_toFinset] at hr hr'
  refine Finset.disjoint_left.2 fun w h h' => hne ?_
  exact eq_of_match hr hr' (OpcodeRow.mem_words.1 h) (OpcodeRow.mem_words.1 h')

/-- Settles O5: the legal words are the disjoint union of the rows' words, and the rows' counts are summed. -/
theorem legalWordsNumber67135160 : Obligations.LegalWordsNumber67135160 := by
  unfold Obligations.LegalWordsNumber67135160
  calc Nat.card (Subtype fun w : Word => ∃ i, decode w = .ok i)
      = (opcodeMap.toFinset.biUnion OpcodeRow.words).card := Nat.subtype_card _ fun _ => exists_decode_iff.symm
    _ = ∑ r ∈ opcodeMap.toFinset, r.words.card := Finset.card_biUnion opcodeMap_words_disjoint
    _ = ∑ r ∈ opcodeMap.toFinset, 2 ^ freeBits r.mask :=
        Finset.sum_congr rfl fun _ hr => OpcodeRow.card_words (List.mem_toFinset.1 hr)
    _ = 67135160 := by decide

/-! ### The worked examples (30_encoding.md R127) -/

/-- Settles O1: the assembler, the encoder and the decoder are run on each line and word. -/
theorem workedExampleWordsDecode : Obligations.WorkedExampleWordsDecode := by
  unfold Obligations.WorkedExampleWordsDecode
  decide

end Sys2Proof
end

section
/-! The field arithmetic commands (41_field.md): when a format-R word is its command, what a command that writes one
field register leaves behind, the power and the inverse modulo p, and then one command at a time. -/

namespace Sys2Proof.Machine

open Sys2Proof.Claims

/-! ### The words of a format-R command (30_encoding.md R115, R117) -/

/-- A word that the decoder hands to `checkR` is the command exactly if the check passes. -/
theorem encodedBy_of_checkR {w : Word} {unused points : List (BitVec 4)} {i : Instr} {legal : Prop}
    (hw : decode w = checkR w unused points i)
    (hlegal : legal ↔ rsvField w = 0 ∧ (∀ u ∈ unused, u = 0) ∧ ∀ q ∈ points, PReg.ok q = true) :
    EncodedBy w i legal := by
  refine ⟨fun h => hw ▸ checkR_eq_ok_iff.2 ⟨rfl, hlegal.1 h⟩, fun h => ?_⟩
  cases hc : decode w with
  | error e => exact ⟨e, rfl⟩
  | ok j =>
    obtain ⟨-, hpass⟩ := checkR_eq_ok_iff.1 (hw ▸ hc)
    exact absurd (hlegal.2 hpass) h

section packR

variable {op : BitVec 6} {d a b c : BitVec 4} {rsv : BitVec 10} {i : Instr}

/-- A command of three operand fields without a point. -/
theorem encodedBy_threeFields
    (h : decode (packR op d a b c rsv) = checkR (packR op d a b c rsv) [c] [] i) :
    EncodedBy (packR op d a b c rsv) i (c = 0 ∧ rsv = 0) :=
  encodedBy_of_checkR h (by simp [and_comm])

/-- A command of two operand fields without a point. -/
theorem encodedBy_twoFields
    (h : decode (packR op d a b c rsv) = checkR (packR op d a b c rsv) [b, c] [] i) :
    EncodedBy (packR op d a b c rsv) i (b = 0 ∧ c = 0 ∧ rsv = 0) :=
  encodedBy_of_checkR h (by simp [and_assoc, and_comm])

end packR

/-! ### How a command ends (10_state.md R53, 60_exceptions.md R275) -/

theorem errorRecorded_finish (e : ErrorCause) (w : Word) (s : State) :
    ErrorRecorded (errorCode e) w s (s.recordError e w).finish where
  err := rfl
  errcode := rfl
  errcmd := rfl
  done := rfl
  pending := rfl
  fields _ := rfl
  sk := rfl
  memory _ := rfl
  flags := ⟨rfl, rfl⟩
  drop := rfl
  ieDone := rfl
  ieErr := rfl
  run := rfl

theorem readF_lt (s : State) (j : Fin 16) : s.readF j < 2 ^ 255 := s.f[j].isLt

/-- A value that fits the register is written whole, in [0, p) or not. -/
theorem writesField_finish (s : State) (r : FReg) {v : Nat} (hv : v < 2 ^ 255) :
    WritesField r v s (s.writeF (fIndex r) v).finish := by
  refine ⟨⟨rfl, rfl, rfl, rfl, rfl, rfl, rfl, rfl, rfl⟩, ?_, fun j hj => ?_, rfl, fun _ => rfl, rfl, rfl⟩
  · rw [finish_readF, readF_writeF, if_pos rfl, Nat.mod_eq_of_lt hv]
  · rw [finish_readF, readF_writeF_ne _ _ hj]

theorem exists_writesField {i : Instr} {s : State} {r : FReg} {v : Nat}
    (h : exec i s = complete (s.writeF (fIndex r) v)) (hv : v < 2 ^ 255) :
    ∃ t, exec i s = .next t ∧ WritesField r v s t :=
  ⟨_, h, writesField_finish s r hv⟩

theorem exists_writesField_reduced {i : Instr} {s : State} {r : FReg} {v : Nat}
    (h : exec i s = complete (s.writeF (fIndex r) v)) (hv : v < prime) :
    ∃ t, exec i s = .next t ∧ WritesField r v s t :=
  exists_writesField h (hv.trans prime_lt_two_pow)

/-! ### The power and the inverse modulo p (41_field.md R143, R144, R145) -/

theorem one_mod_prime : 1 % prime = 1 := by decide

/-- The loop runs over 255 bits, so it computes the power for every exponent that has no more. -/
theorem fpow_eq (a : Nat) {e : Nat} (he : e < 2 ^ 255) : fpow a e = a ^ e % prime := by
  rw [← powBits_eq he, one_mod_prime, ← fpowBits_eq_powBits]
  exact (Nat.mod_eq_of_lt (fpow_lt a e)).symm

theorem finv_eq (a : Nat) : finv a = a ^ (prime - 2) % prime :=
  fpow_eq a (by decide)

section inverse

variable {a : Nat} (h0 : 0 < a) (ha : a < prime)
include h0 ha

theorem prime_coprime : Nat.Coprime prime a := Nat.coprime_of_lt_prime h0.ne' ha prime_prime

/-- Fermat's little theorem: the power p - 2 inverts. -/
theorem finv_mul_mod : finv a * a % prime = 1 := by
  have hfermat := Nat.ModEq.pow_card_sub_one_eq_one prime_prime (prime_coprime h0 ha).symm
  have h : finv a * a ≡ 1 [MOD prime] :=
    calc finv a * a ≡ a ^ (prime - 2) * a [MOD prime] := finv_eq a ▸ (Nat.mod_modEq _ _).mul_right a
      _ = a ^ (prime - 1) := (pow_succ a (prime - 2)).symm
      _ ≡ 1 [MOD prime] := hfermat
  rw [h, one_mod_prime]

theorem one_le_finv : 1 ≤ finv a := by
  by_contra h
  have hzero : finv a = 0 := by omega
  have hinv := finv_mul_mod h0 ha
  rw [hzero, Nat.zero_mul, Nat.zero_mod] at hinv
  exact absurd hinv (by decide)

/-- A factor coprime to p cancels, so an inverse in [0, p) is the only one. -/
theorem eq_finv_of_mul_mod {x : Nat} (hx : x < prime) (h : x * a % prime = 1) : x = finv a :=
  (Nat.ModEq.cancel_right_of_coprime (prime_coprime h0 ha) (h.trans (finv_mul_mod h0 ha).symm)).eq_of_lt_of_lt
    hx (finv_lt a)

/-- Bezout's identity: the coefficient of `a` inverts. -/
theorem finvEuclid_mul_mod : finvEuclid a * a % prime = 1 := by
  have hbezout : (1 : Int) = a * Nat.gcdA a prime + prime * Nat.gcdB a prime := by
    rw [← Nat.gcd_eq_gcd_ab, (prime_coprime h0 ha).symm, Nat.cast_one]
  have hcast : (finvEuclid a : Int) = Nat.gcdA a prime % prime :=
    Int.toNat_of_nonneg (Int.emod_nonneg _ (by decide))
  have h : (finvEuclid a : Int) * a ≡ 1 [ZMOD prime] :=
    calc (finvEuclid a : Int) * a ≡ Nat.gcdA a prime * a [ZMOD prime] := hcast ▸ (Int.mod_modEq _ _).mul_right _
      _ ≡ a * Nat.gcdA a prime + prime * Nat.gcdB a prime [ZMOD prime] := by
        rw [mul_comm]
        exact Int.modEq_add_fac_self.symm
      _ = 1 := hbezout.symm
  have hnat : finvEuclid a * a ≡ 1 [MOD prime] := Int.natCast_modEq_iff.1 (by exact_mod_cast h)
  rw [hnat, one_mod_prime]

end inverse

theorem finvEuclid_lt (a : Nat) : finvEuclid a < prime :=
  (Int.toNat_lt' prime_pos).2 (Int.emod_lt_of_pos _ (Int.natCast_pos.2 prime_pos))

/-- Settles O13, by the methods: both invert, and the inverse is unique. -/
theorem inversionMethodIsNotObservable : Obligations.InversionMethodIsNotObservable := by
  intro m a h0 ha
  cases m with
  | fermat => rfl
  | euclid => exact eq_finv_of_mul_mod h0 ha (finvEuclid_lt a) (finvEuclid_mul_mod h0 ha)

/-! ### The commands -/

/-- Settles O7: the value written is `fadd`, the sum reduced. -/
theorem faddWritesTheSumModP : Obligations.FaddWritesTheSumModP := fun d a b s =>
  ⟨fun c rsv => encodedBy_threeFields (by simp [decode]),
    exists_writesField_reduced (exec_fadd s d a b) (fadd_lt _ _)⟩

/-- Settles O8: the value is `fsub`'s, which `fsub_cast` gives as an integer. -/
theorem fsubWritesTheDifferenceModP : Obligations.FsubWritesTheDifferenceModP := by
  intro d a b s
  obtain ⟨t, ht, hwrites⟩ := exists_writesField_reduced (exec_fsub s d a b) (fsub_lt _ _)
  exact ⟨fun c rsv => encodedBy_threeFields (by simp [decode]), t, _, ht, fsub_cast _ _, hwrites⟩

/-- Settles O9: the value written is `fmul`, the full product reduced. -/
theorem fmulWritesTheProductModP : Obligations.FmulWritesTheProductModP := fun d a b s =>
  ⟨fun c rsv => encodedBy_threeFields (by simp [decode]),
    exists_writesField_reduced (exec_fmul s d a b) (fmul_lt _ _)⟩

/-- Settles O10: a register's 255 bits are all the exponent's, so `fpow_eq` gives the power. -/
theorem fpowWritesThePowerModP : Obligations.FpowWritesThePowerModP := by
  intro d a b s
  refine ⟨fun c rsv => encodedBy_threeFields (by simp [decode]), ?_⟩
  have hpow : s.srcF a ^ s.srcF b % prime = fpow (s.srcF a) (s.srcF b) := (fpow_eq _ (readF_lt s _)).symm
  rw [hpow]
  exact exists_writesField_reduced (exec_fpow s d a b) (fpow_lt _ _)

/-- Settles O11, by the two ends of FINV. -/
theorem finvWritesTheInverseOrRaises : Obligations.FinvWritesTheInverseOrRaises := by
  intro d a s hfield
  refine ⟨fun b c rsv => encodedBy_twoFields (by simp [decode]), fun hne => ?_, fun hzero w hw => ?_⟩
  · have h0 : 0 < s.srcF a := Nat.pos_of_ne_zero hne
    have ha : s.srcF a < prime := hfield _
    obtain ⟨t, ht, hwrites⟩ :=
      exists_writesField_reduced ((exec_finv s d a).trans (if_neg hne)) (finv_lt (s.srcF a))
    exact ⟨t, _, ht, hwrites, finv_eq _, one_le_finv h0 ha, finv_lt _, finv_mul_mod h0 ha,
      fun x _ => eq_finv_of_mul_mod h0 ha⟩
  · have hraise : exec (.finv d a) s = raise .invZero w s := by
      rw [exec_finv, execFinv, if_pos hzero, pendingWord_eq hw]
    exact ⟨_, hraise, errorRecorded_finish .invZero w s⟩

/-- Settles O12: both sources fit the 255 bits of the destination. -/
theorem fmovAndFldiWriteTheirSource : Obligations.FmovAndFldiWriteTheirSource := fun d a imm s =>
  ⟨⟨fun b c rsv => encodedBy_twoFields (by simp [decode]), exists_writesField (exec_fmov s d a) (readF_lt s _)⟩,
    decodeOfEncodeIsTheCommand (.fldi d imm) rfl,
    exists_writesField (exec_fldi s d imm) (imm.isLt.trans (by decide))⟩

end Sys2Proof.Machine
end

section
/-! The projective point commands (42_point.md): the field operations and the point formulas modulo p, read in
`ZMod prime`; when a format-R word with point operands is its command; what a command that writes one point register
leaves behind. -/

namespace Sys2Proof.Machine

open Sys2Proof.Claims

/-! ### The field operations in `ZMod prime` (00_scope.md R17) -/

@[simp] theorem cast_fadd (a b : Nat) : (fadd a b : ZMod prime) = a + b := by
  rw [fadd, ZMod.natCast_mod, Nat.cast_add]

@[simp] theorem cast_fsub (a b : Nat) : (fsub a b : ZMod prime) = a - b := by
  rw [← Int.cast_natCast (fsub a b), fsub_cast, ZMod.intCast_mod, Int.cast_sub, Int.cast_natCast, Int.cast_natCast]

@[simp] theorem cast_fmul (a b : Nat) : (fmul a b : ZMod prime) = a * b := by
  rw [fmul, ZMod.natCast_mod, Nat.cast_mul]

@[simp] theorem cast_fsq (a : Nat) : (fsq a : ZMod prime) = a ^ 2 := by
  rw [fsq, cast_fmul, pow_two]

/-- A value in [0, p) is the residue of every integer it equals modulo p. -/
theorem eq_emod_of_cast_eq {v : Nat} (hv : v < prime) {n : Int} (h : (v : ZMod prime) = n) :
    (v : Int) = n % prime := by
  have hmod : (v : Int) % prime = n % prime := (ZMod.intCast_eq_intCast_iff' _ _ _).1 (by rw [Int.cast_natCast, h])
  rwa [Int.emod_eq_of_lt (Int.natCast_nonneg v) (Int.ofNat_lt.2 hv)] at hmod

/-- Two values in [0, p) that are equal modulo p are equal. -/
theorem eq_of_lt_of_cast_eq {v w : Nat} (hv : v < prime) (hw : w < prime) (h : (v : ZMod prime) = w) : v = w :=
  ((ZMod.natCast_eq_natCast_iff _ _ _).1 h).eq_of_lt_of_lt hv hw

theorem Point.eq_of_cast_eq {q r : Point} (hq : q.Reduced) (hr : r.Reduced) (hx : (q.x : ZMod prime) = r.x)
    (hz : (q.z : ZMod prime) = r.z) : q = r := by
  obtain ⟨qx, qz⟩ := q
  obtain ⟨rx, rz⟩ := r
  exact congrArg₂ Point.mk (eq_of_lt_of_cast_eq hq.1 hr.1 hx) (eq_of_lt_of_cast_eq hq.2 hr.2 hz)

/-! ### Doubling (42_point.md R171) -/

section dbl

variable (q : Point)

theorem cast_dbl_x : ((dbl q).x : ZMod prime) = (q.x + q.z) ^ 2 * (q.x - q.z) ^ 2 := by
  simp [dbl]

theorem cast_dbl_z :
    ((dbl q).z : ZMod prime) = 4 * q.x * q.z * ((q.x - q.z) ^ 2 + 486664 * (q.x * q.z)) := by
  simp [dbl, curveAPlus2_eq, mul_assoc]

end dbl

/-- Settles O14: the first form is `dbl` read modulo p, and 486664 is 121666 times 4. -/
theorem doublingFormula : Obligations.DoublingFormula := by
  intro q
  obtain ⟨hx, hz⟩ := dbl_reduced q
  refine ⟨eq_emod_of_cast_eq hx ?_, eq_emod_of_cast_eq hz ?_, eq_emod_of_cast_eq hz ?_⟩
  · exact_mod_cast cast_dbl_x q
  · exact_mod_cast cast_dbl_z q
  · push_cast
    rw [cast_dbl_z]
    ring

/-! ### Differential addition (42_point.md R174) -/

section dadd

variable (q1 q2 d : Point)

theorem cast_dadd_x : ((dadd q1 q2 d).x : ZMod prime) =
    d.z * ((q2.x - q2.z) * (q1.x + q1.z) + (q2.x + q2.z) * (q1.x - q1.z)) ^ 2 := by
  simp [dadd]

theorem cast_dadd_z : ((dadd q1 q2 d).z : ZMod prime) =
    d.x * ((q2.x - q2.z) * (q1.x + q1.z) - (q2.x + q2.z) * (q1.x - q1.z)) ^ 2 := by
  simp [dadd]

/-- Swapping the points swaps S and T: (S + T)² and (S - T)² stay. -/
theorem dadd_comm : dadd q2 q1 d = dadd q1 q2 d := by
  refine Point.eq_of_cast_eq (dadd_reduced _ _ _) (dadd_reduced _ _ _) ?_ ?_
  · rw [cast_dadd_x, cast_dadd_x]
    ring
  · rw [cast_dadd_z, cast_dadd_z]
    ring

end dadd

/-- Settles O15: the formula is `dadd` read modulo p, the symmetry is `dadd_comm`. -/
theorem differentialAdditionFormula : Obligations.DifferentialAdditionFormula := by
  rintro q1 q2 d S T rfl rfl
  obtain ⟨hx, hz⟩ := dadd_reduced q1 q2 d
  exact ⟨eq_emod_of_cast_eq hx (by exact_mod_cast cast_dadd_x q1 q2 d),
    eq_emod_of_cast_eq hz (by exact_mod_cast cast_dadd_z q1 q2 d), dadd_comm q1 q2 d⟩

/-! ### The words of a command with point operands (30_encoding.md R113, R117) -/

theorem pregOk_iff_lt_eight : ∀ r : PReg, PReg.ok r = true ↔ r < 8 := by decide

section packR

variable {op : BitVec 6} {d a b c : BitVec 4} {rsv : BitVec 10} {i : Instr}

/-- A command of two point operands. -/
theorem encodedBy_twoPoints
    (h : decode (packR op d a b c rsv) = checkR (packR op d a b c rsv) [b, c] [d, a] i) :
    EncodedBy (packR op d a b c rsv) i (d < 8 ∧ a < 8 ∧ b = 0 ∧ c = 0 ∧ rsv = 0) :=
  encodedBy_of_checkR h (by simp [pregOk_iff_lt_eight, and_assoc, and_comm, and_left_comm])

/-- A command of four point operands. -/
theorem encodedBy_fourPoints
    (h : decode (packR op d a b c rsv) = checkR (packR op d a b c rsv) [] [d, a, b, c] i) :
    EncodedBy (packR op d a b c rsv) i (d < 8 ∧ a < 8 ∧ b < 8 ∧ c < 8 ∧ rsv = 0) :=
  encodedBy_of_checkR h (by simp [pregOk_iff_lt_eight, and_assoc, and_comm])

end packR

/-! ### What a command that writes one point register leaves behind -/

/-- Coordinates that fit their registers are read back whole, in [0, p) or not. -/
theorem readP_writeP_of_lt (s : State) (n : Fin 8) {q : Point} (hx : q.x < 2 ^ 255) (hz : q.z < 2 ^ 255) :
    (s.writeP n q).readP n = q := by
  unfold State.readP State.writeP
  rw [readF_writeF_ne _ _ (pointZ_ne_pointX n n).symm, readF_writeF, readF_writeF, if_pos rfl, if_pos rfl,
    Nat.mod_eq_of_lt hx, Nat.mod_eq_of_lt hz]

theorem writesPoint_finish (s : State) (r : PReg) {q : Point} (hx : q.x < 2 ^ 255) (hz : q.z < 2 ^ 255) :
    WritesPoint r q s (s.writeP (pIndex r) q).finish := by
  refine ⟨⟨rfl, rfl, rfl, rfl, rfl, rfl, rfl, rfl, rfl⟩, ?_, fun j hjx hjz => ?_, rfl, fun _ => rfl, rfl, rfl⟩
  · rw [finish_readP, readP_writeP_of_lt _ _ hx hz]
  · rw [finish_readF, readF_writeP_ne _ _ hjx hjz]

theorem exists_writesPoint_reduced {i : Instr} {s : State} {r : PReg} {q : Point}
    (h : exec i s = complete (s.writeP (pIndex r) q)) (hq : q.Reduced) :
    ∃ t, exec i s = .next t ∧ WritesPoint r q s t :=
  ⟨_, h, writesPoint_finish s r (hq.1.trans prime_lt_two_pow) (hq.2.trans prime_lt_two_pow)⟩

/-! ### The commands -/

/-- Settles O16: the point written is `dbl`, whose coordinates are reduced for every source. -/
theorem pdblWritesTheDouble : Obligations.PdblWritesTheDouble := fun d a s =>
  ⟨fun b c rsv => encodedBy_twoPoints (by simp [decode]),
    exists_writesPoint_reduced (exec_pdbl s d a) (dbl_reduced _)⟩

/-- Settles O17: the point written is `dadd`, whose coordinates are reduced for every three sources. -/
theorem paddWritesTheDifferentialSum : Obligations.PaddWritesTheDifferentialSum := fun d a b c s =>
  ⟨fun rsv => encodedBy_fourPoints (by simp [decode]),
    exists_writesPoint_reduced (exec_padd s d a b c) (dadd_reduced _ _ _)⟩

end Sys2Proof.Machine
end

section
/-! The scalar and ladder commands (43_ladder.md): clamping bit by bit, the ladder's sequence of accumulators, the
conditional-swap loop, the degenerate inputs, and then one command at a time. -/

namespace Sys2Proof.Machine

open Sys2Proof.Claims

/-! ### Clamping (43_ladder.md R194, R195) -/

/-- Bit `k` of a byte string's integer is bit `k % 8` of byte `k / 8`. -/
theorem testBit_leToNat (bs : List Byte) (k : Nat) :
    (leToNat bs).testBit k = (bs.getD (k / 8) 0).getLsbD (k % 8) := by
  induction bs generalizing k with
  | nil => simp [leToNat]
  | cons b bs ih =>
    rw [leToNat, Nat.add_comm, Nat.testBit_two_pow_mul_add (i := 8) _ b.isLt]
    split
    case isTrue h =>
      rw [Nat.div_eq_of_lt h, Nat.mod_eq_of_lt h, List.getD_cons_zero]
      rfl
    case isFalse h =>
      obtain ⟨j, rfl⟩ := Nat.exists_eq_add_of_le (Nat.not_lt.1 h)
      rw [Nat.add_sub_cancel_left, ih, Nat.add_mod_left, Nat.add_div_left _ (by decide), List.getD_cons_succ]

@[simp] theorem clampBytes_length (b : List Byte) : (clampBytes b).length = b.length := by
  simp [clampBytes]

theorem clampBytes_getD_zero (b : List Byte) : (clampBytes b).getD 0 0 = b.getD 0 0 &&& 0xF8 := by
  cases b <;> simp [clampBytes]

theorem clampBytes_getD_last {b : List Byte} (hb : b.length = 32) :
    (clampBytes b).getD 31 0 = (b.getD 31 0 &&& 0x7F) ||| 0x40 := by
  simp [clampBytes, List.getD_eq_getElem?_getD, hb]

theorem clampBytes_getD_of_ne {k : Nat} (b : List Byte) (h0 : k ≠ 0) (h31 : k ≠ 31) :
    (clampBytes b).getD k 0 = b.getD k 0 := by
  simp [clampBytes, List.getD_eq_getElem?_getD, h0.symm, h31.symm]

/-- Bits 3 to 253 are the source's, bit 254 is set, every other bit is clear. By the byte the bit lies in: byte 0 and
byte 31 are masked, the bytes between are the source's, and there are no others. -/
theorem testBit_clamp {b : List Byte} (hb : b.length = 32) (k : Nat) :
    (clamp b).testBit k = (decide (k = 254) || (decide (3 ≤ k ∧ k < 254) && (leToNat b).testBit k)) := by
  have hF8 : ∀ j < 8, (0xF8 : Byte).getLsbD j = decide (3 ≤ j) := by decide
  have h7F : ∀ j < 8, (0x7F : Byte).getLsbD j = decide (j ≠ 7) := by decide
  have h40 : ∀ j < 8, (0x40 : Byte).getLsbD j = decide (j = 6) := by decide
  have hlt : k % 8 < 8 := Nat.mod_lt _ (by decide)
  rw [clamp, testBit_leToNat, testBit_leToNat]
  by_cases h0 : k / 8 = 0
  · rw [h0, clampBytes_getD_zero, BitVec.getLsbD_and, hF8 _ hlt]
    grind
  by_cases h31 : k / 8 = 31
  · rw [h31, clampBytes_getD_last hb, BitVec.getLsbD_or, BitVec.getLsbD_and, h7F _ hlt, h40 _ hlt]
    grind
  rw [clampBytes_getD_of_ne b h0 h31]
  by_cases hk : k / 8 < 31
  · rw [decide_eq_false (by omega), decide_eq_true (by omega), Bool.false_or, Bool.true_and]
  · rw [decide_eq_false (by omega), decide_eq_false (by omega), List.getD_eq_default _ _ (by omega)]
    exact BitVec.getLsbD_zero

theorem testBit_clampMask (k : Nat) : (2 ^ 255 - 8).testBit k = decide (3 ≤ k ∧ k < 255) := by
  rw [show 2 ^ 255 - 8 = (2 ^ 252 - 1) <<< 3 by decide, Nat.testBit_shiftLeft, Nat.testBit_two_pow_sub_one]
  grind

theorem leToNat_le32 {v : Nat} (hv : v < 2 ^ 256) : leToNat (le32 v) = v := by
  rw [le32, leToNat_natToLe]
  exact Nat.mod_eq_of_lt hv

section clamp

variable {b : List Byte} (hb : b.length = 32)
include hb

theorem clamp_eq_and_or : clamp b = (leToNat b &&& (2 ^ 255 - 8)) ||| 2 ^ 254 := by
  refine Nat.eq_of_testBit_eq fun k => ?_
  rw [testBit_clamp hb, Nat.testBit_or, Nat.testBit_and, testBit_clampMask, Nat.testBit_two_pow]
  grind

theorem clamp_mod_eight : clamp b % 8 = 0 := by
  refine Nat.zero_of_testBit_eq_false fun k => ?_
  rw [show 8 = 2 ^ 3 by rfl, Nat.testBit_mod_two_pow, testBit_clamp hb]
  grind

theorem two_pow_254_le_clamp : 2 ^ 254 ≤ clamp b :=
  Nat.ge_two_pow_of_testBit (by rw [testBit_clamp hb]; rfl)

theorem clamp_lt : clamp b < 2 ^ 255 := by
  refine Nat.lt_pow_two_of_testBit _ fun k hk => ?_
  rw [testBit_clamp hb]
  grind

theorem clamp_le32_clamp : clamp (le32 (clamp b)) = clamp b := by
  refine Nat.eq_of_testBit_eq fun k => ?_
  rw [testBit_clamp (le32_length _), leToNat_le32 ((clamp_lt hb).trans (by decide)), testBit_clamp hb]
  grind

/-- Clamping forgets the bits it forces. -/
theorem clamp_eq_of_testBit_eq {b' : List Byte} (hb' : b'.length = 32)
    (h : ∀ k, k ∉ [0, 1, 2, 254, 255] → (leToNat b').testBit k = (leToNat b).testBit k) : clamp b' = clamp b := by
  refine Nat.eq_of_testBit_eq fun k => ?_
  rw [testBit_clamp hb, testBit_clamp hb']
  by_cases hk : 3 ≤ k ∧ k < 254
  · rw [h k (by grind)]
  · rw [decide_eq_false hk, Bool.false_and, Bool.false_and]

end clamp

/-- Settles O21: the byte form is the definition, and the rest is read off bit by bit. -/
theorem clampForcesTheFiveBits : Obligations.ClampForcesTheFiveBits := by
  intro b hb
  refine ⟨⟨clampBytes b, by rw [clampBytes_length, hb], rfl, clampBytes_getD_zero b, clampBytes_getD_last hb,
    fun k h0 h31 => clampBytes_getD_of_ne b h0.ne' h31.ne⟩, clamp_eq_and_or hb, ?_,
    ⟨clamp_mod_eight hb, two_pow_254_le_clamp hb, clamp_lt hb⟩, clamp_le32_clamp hb,
    fun b' => clamp_eq_of_testBit_eq hb⟩
  simp [testBit_clamp hb]

/-! ### The ladder (43_ladder.md R196) -/

section ladder

variable (s : Nat) (d : Point) (n : Nat) (qr : Accumulators)

theorem ladderStep_false : ladderStep false d qr = ⟨dbl qr.q, dadd qr.q qr.r d⟩ := rfl

theorem ladderStep_true : ladderStep true d qr = ⟨dadd qr.q qr.r d, dbl qr.r⟩ := rfl

theorem ladderBits_succ : ladderBits s d (n + 1) qr = ladderBits s d n (ladderStep (s.testBit n) d qr) := rfl

/-- The accumulators of the loop, by the number of bits still to come. -/
theorem exists_ladderBits_sequence : ∃ acc : Nat → Accumulators, acc n = qr ∧ acc 0 = ladderBits s d n qr ∧
    ∀ i < n, acc i = ladderStep (s.testBit i) d (acc (i + 1)) := by
  induction n generalizing qr with
  | zero => exact ⟨fun _ => qr, rfl, rfl, fun i hi => absurd hi i.not_lt_zero⟩
  | succ n ih =>
    obtain ⟨acc, hn, h0, hstep⟩ := ih (ladderStep (s.testBit n) d qr)
    refine ⟨Function.update acc (n + 1) qr, Function.update_self .., ?_, fun i hi => ?_⟩
    · rw [Function.update_of_ne (by omega), h0, ladderBits_succ]
    rw [Function.update_of_ne (by omega)]
    obtain hlt | rfl := Nat.lt_succ_iff_lt_or_eq.1 hi
    · rw [Function.update_of_ne (by omega), hstep i hlt]
    · rw [Function.update_self, hn]

end ladder

/-- Settles O22: the two components of the loop's accumulators. -/
theorem scalarMulIsTheLadder : Obligations.ScalarMulIsTheLadder := by
  intro k pt _
  obtain ⟨acc, htop, hend, hstep⟩ := exists_ladderBits_sequence k pt 256 ⟨neutral, pt⟩
  refine ⟨fun i => (acc i).q, fun i => (acc i).r, congrArg (·.q) htop, congrArg (·.r) htop,
    congrArg (·.q) hend.symm, fun i hi => ⟨fun hbit => ?_, fun hbit => ?_⟩⟩
  · simp only [hstep i hi, hbit, ladderStep_false, and_self]
  · simp only [hstep i hi, hbit, ladderStep_true, and_self]

/-! ### The conditional-swap loop (43_ladder.md R199) -/

/-- For bit 1 the swapped iteration adds `r` and `q` in the other order. -/
theorem cswapStep_eq_ladderStep (b : Bool) (d : Point) (qr : Accumulators) :
    cswapStep b d qr = ladderStep b d qr := by
  cases b with
  | false => rfl
  | true => exact congrArg (Accumulators.mk · (dbl qr.r)) (dadd_comm qr.q qr.r d)

/-- Settles O23, by induction on the number of iterations. -/
theorem conditionalSwapLoopIsTheLadder : Obligations.ConditionalSwapLoopIsTheLadder := by
  intro k pt n qr
  induction n generalizing qr with
  | zero => rfl
  | succ n ih => rw [cswapBits, cswapStep_eq_ladderStep, ih, ladderBits_succ]

/-! ### Degenerate inputs (43_ladder.md R200) -/

theorem dbl_neutral : dbl neutral = neutral := by decide

theorem dbl_zero : dbl ⟨0, 0⟩ = ⟨0, 0⟩ := by decide

theorem dadd_zero (q d : Point) : dadd ⟨0, 0⟩ q d = ⟨0, 0⟩ := by
  refine Point.eq_of_cast_eq (dadd_reduced _ _ _) ⟨prime_pos, prime_pos⟩ ?_ ?_
  · rw [cast_dadd_x]
    simp
  · rw [cast_dadd_z]
    simp

/-- `d` and `r` have the same coordinate 0. -/
def Point.ShareZero (d r : Point) : Prop := (d.x = 0 ∧ r.x = 0) ∨ (d.z = 0 ∧ r.z = 0)

/-- The sum of the neutral element and `r` has X = 4·dZ·rX² and Z = 4·dX·rZ². -/
theorem dadd_neutral {d r : Point} (h : d.ShareZero r) : dadd neutral r d = ⟨0, 0⟩ := by
  refine Point.eq_of_cast_eq (dadd_reduced _ _ _) ⟨prime_pos, prime_pos⟩ ?_ ?_
  · rw [cast_dadd_x]
    obtain ⟨-, hr⟩ | ⟨hd, -⟩ := h
    · simp [neutral, hr]
    · simp [hd]
  · rw [cast_dadd_z]
    obtain ⟨hd, -⟩ | ⟨-, hr⟩ := h
    · simp [hd]
    · simp [neutral, hr]

theorem Point.ShareZero.zero {d r : Point} (h : d.ShareZero r) : d.ShareZero ⟨0, 0⟩ :=
  h.imp (fun hx => ⟨hx.1, rfl⟩) fun hz => ⟨hz.1, rfl⟩

section ladder

variable {s : Nat} {d : Point} {n : Nat} {qr : Accumulators}

theorem ladderStep_q_zero {b : Bool} (hq : qr.q = ⟨0, 0⟩) : (ladderStep b d qr).q = ⟨0, 0⟩ := by
  cases b with
  | false => rw [ladderStep_false, hq, dbl_zero]
  | true => rw [ladderStep_true, hq, dadd_zero]

/-- From Q = (0, 0) the loop does not leave it. -/
theorem ladderBits_q_zero (hq : qr.q = ⟨0, 0⟩) : (ladderBits s d n qr).q = ⟨0, 0⟩ := by
  induction n generalizing qr with
  | zero => exact hq
  | succ n ih => exact ih (ladderStep_q_zero hq)

/-- While every bit is 0 the loop only doubles the neutral element. -/
theorem ladderBits_zero_q (hq : qr.q = neutral) : (ladderBits 0 d n qr).q = neutral := by
  induction n generalizing qr with
  | zero => exact hq
  | succ n ih => exact ih (by rw [Nat.zero_testBit, ladderStep_false, hq, dbl_neutral])

/-- On a degenerate difference point Q stays neutral until the first bit 1, which makes it (0, 0). -/
theorem ladderBits_q_of_shareZero (hq : qr.q = neutral) (hr : d.ShareZero qr.r) (hbit : ∃ i < n, s.testBit i = true) :
    (ladderBits s d n qr).q = ⟨0, 0⟩ := by
  induction n generalizing qr with
  | zero => obtain ⟨i, hi, -⟩ := hbit; exact absurd hi i.not_lt_zero
  | succ n ih =>
    have hsum : dadd qr.q qr.r d = ⟨0, 0⟩ := by rw [hq, dadd_neutral hr]
    rw [ladderBits_succ]
    cases hn : s.testBit n with
    | true => exact ladderBits_q_zero hsum
    | false =>
      obtain ⟨i, hi, hset⟩ := hbit
      have hne : i ≠ n := by rintro rfl; exact Bool.false_ne_true (hn.symm.trans hset)
      refine ih ?_ ?_ ⟨i, by omega, hset⟩
      · rw [ladderStep_false, hq, dbl_neutral]
      · rw [ladderStep_false, hsum]
        exact hr.zero

end ladder

theorem exists_testBit_lt {k n : Nat} (hk : 1 ≤ k) (hlt : k < 2 ^ n) : ∃ i < n, k.testBit i = true := by
  obtain ⟨i, hi⟩ := Nat.exists_testBit_of_ne_zero (by omega : k ≠ 0)
  refine ⟨i, ?_, hi⟩
  exact (Nat.pow_lt_pow_iff_right (by decide)).1 ((Nat.ge_two_pow_of_testBit hi).trans_lt hlt)

/-- Settles O24: a nonzero scalar has a bit 1, and the point shares its coordinate 0 with the first R, itself. -/
theorem degenerateLadderInputs : Obligations.DegenerateLadderInputs := by
  intro k pt hlt
  have hdegenerate (hk : 1 ≤ k) (h : pt.ShareZero pt) : scalarMul k pt = ⟨0, 0⟩ :=
    ladderBits_q_of_shareZero rfl h (exists_testBit_lt hk hlt)
  refine ⟨?_, fun hk hx => hdegenerate hk (.inl ⟨hx, hx⟩), fun hk hz => hdegenerate hk (.inr ⟨hz, hz⟩)⟩
  rintro rfl
  exact ladderBits_zero_q rfl

/-! ### The commands -/

theorem encodedBy_oneField {op : BitVec 6} {d a b c u v w : BitVec 4} {rsv : BitVec 10} {i : Instr}
    (h : decode (packR op d a b c rsv) = checkR (packR op d a b c rsv) [u, v, w] [] i) :
    EncodedBy (packR op d a b c rsv) i (u = 0 ∧ v = 0 ∧ w = 0 ∧ rsv = 0) :=
  encodedBy_of_checkR h (by simp [and_assoc, and_comm])

theorem readSk_lt (s : State) : s.readSk < 2 ^ 256 := s.sk.isLt

theorem leToNat_readSlot_lt (s : State) (j : Fin 16) : leToNat (s.readSlot j) < 2 ^ 256 := by
  have h := leToNat_lt (s.readSlot j)
  rw [readSlot_length] at h
  exact h

theorem writesScalar_finish (s : State) {v : Nat} (hv : v < 2 ^ 256) : WritesScalar v s (s.writeSk v).finish :=
  ⟨⟨rfl, rfl, rfl, rfl, rfl, rfl, rfl, rfl, rfl⟩, readSk_writeSk s hv, fun _ => rfl, fun _ => rfl, rfl, rfl⟩

theorem exists_writesScalar {i : Instr} {s : State} {v : Nat} (h : exec i s = complete (s.writeSk v))
    (hv : v < 2 ^ 256) : ∃ t, exec i s = .next t ∧ WritesScalar v s t :=
  ⟨_, h, writesScalar_finish s hv⟩

theorem writesSlot_finish {s : State} (hs : Memory.wf s.mem = true) (r : Slot) {b : List Byte} (hb : b.length = 32) :
    WritesSlot r b s (s.writeSlot (sIndex r) b).finish :=
  ⟨⟨rfl, rfl, rfl, rfl, rfl, rfl, rfl, rfl, rfl⟩, readSlot_writeSlot_same hs _ hb,
    fun _ ha => read_writeSlot_outside hs _ hb ha, fun _ => rfl, rfl, rfl, rfl⟩

/-- Settles O18: both values fit the 256 bits of SK. -/
theorem ldkAndClampkLoadTheScalar : Obligations.LdkAndClampkLoadTheScalar := by
  intro a s
  have hclamp : clamp (s.readSlot (sIndex a)) < 2 ^ 256 := (clamp_lt (readSlot_length s _)).trans (by decide)
  exact ⟨⟨fun d b c rsv => encodedBy_oneField (by simp [decode]),
      exists_writesScalar (exec_ldk s a) (leToNat_readSlot_lt s _)⟩,
    fun d b c rsv => encodedBy_oneField (by simp [decode]), exists_writesScalar (exec_clampk s a) hclamp⟩

/-- Settles O19: the bytes stored are read back, and SK is their integer. -/
theorem stkStoresTheScalar : Obligations.StkStoresTheScalar := by
  intro d s hs
  refine ⟨fun a b c rsv => encodedBy_oneField (by simp [decode]), _, exec_stk s d,
    writesSlot_finish hs d (le32_length _), ?_⟩
  rw [finish_readSlot, readSlot_writeSlot_same hs _ (le32_length _), leToNat_le32 (readSk_lt s)]

/-- Settles O20: the point written is `scalarMul`, whose coordinates are reduced for every source. -/
theorem ladderWritesTheScalarMultiple : Obligations.LadderWritesTheScalarMultiple := fun d a s =>
  ⟨fun b c rsv => encodedBy_twoPoints (by simp [decode]),
    exists_writesPoint_reduced (exec_ladder s d a) (scalarMul_reduced _ _)⟩

end Sys2Proof.Machine
end

section
/-! The codec commands (44_codec.md): byte strings as field elements and back, the ladder modulo p, the conversion to
affine form, and then one command at a time. -/

namespace Sys2Proof.Machine

open Sys2Proof.Claims

/-! ### Byte strings and field elements (44_codec.md R220, R221) -/

theorem leToNat_lt_of_length {b : List Byte} (hb : b.length = 32) : leToNat b < 2 * prime + 38 := by
  have h := leToNat_lt b
  rw [hb] at h
  exact h

/-- One subtraction of p reduces a value in [p, 2p). -/
theorem bytesToField_of_lt_two_mul {b : List Byte} (hlo : prime ≤ leToNat b) (hhi : leToNat b < 2 * prime) :
    bytesToField b = leToNat b - prime := by
  rw [bytesToField, Nat.mod_eq_sub_mod hlo, Nat.mod_eq_of_lt (by omega)]

/-- One subtraction of 2p reduces a 32-byte value from 2p on, and leaves at most 37. -/
theorem bytesToField_of_two_mul_le {b : List Byte} (hb : b.length = 32) (hlo : 2 * prime ≤ leToNat b) :
    bytesToField b = leToNat b - 2 * prime ∧ bytesToField b ≤ 37 := by
  have hhi := leToNat_lt_of_length hb
  have h38 : 38 < prime := by decide
  have hsub : bytesToField b = leToNat b - 2 * prime := by
    rw [bytesToField, ← Nat.sub_mul_mod (k := 2) (by rwa [Nat.mul_comm]), Nat.mul_comm, Nat.mod_eq_of_lt (by omega)]
  exact ⟨hsub, by omega⟩

theorem leToNat_fieldToBytes {x : Nat} (hx : x < 2 ^ 255) : leToNat (fieldToBytes x) = x :=
  leToNat_le32 (hx.trans (by decide))

theorem bytesToField_fieldToBytes {x : Nat} (hx : x < prime) : bytesToField (fieldToBytes x) = x := by
  rw [bytesToField, leToNat_fieldToBytes (hx.trans prime_lt_two_pow), Nat.mod_eq_of_lt hx]

/-- The encoding of a field element has an integer below p, so no string from p on is one. -/
theorem fieldToBytes_bytesToField_ne {b : List Byte} (hlo : prime ≤ leToNat b) :
    fieldToBytes (bytesToField b) ≠ b := by
  intro h
  have hlt := bytesToField_lt b
  have hint : leToNat b = bytesToField b := by
    rw [← leToNat_fieldToBytes (hlt.trans prime_lt_two_pow), h]
  omega

/-! ### The ladder reads its point modulo p (44_codec.md R220) -/

/-- The coordinates are equal modulo p. -/
def Point.SameModP (q r : Point) : Prop := (q.x : ZMod prime) = r.x ∧ (q.z : ZMod prime) = r.z

theorem Point.SameModP.refl (q : Point) : q.SameModP q := ⟨rfl, rfl⟩

theorem Point.SameModP.mod_prime (x z : Nat) : Point.SameModP ⟨x % prime, z⟩ ⟨x, z⟩ := ⟨ZMod.natCast_mod _ _, rfl⟩

section congr

variable {q q' r r' d d' : Point} (hq : q.SameModP q') (hr : r.SameModP r') (hd : d.SameModP d')

include hq in
theorem dbl_congr : dbl q = dbl q' := by
  obtain ⟨hx, hz⟩ := hq
  refine Point.eq_of_cast_eq (dbl_reduced _) (dbl_reduced _) ?_ ?_
  · rw [cast_dbl_x, cast_dbl_x, hx, hz]
  · rw [cast_dbl_z, cast_dbl_z, hx, hz]

include hq hr hd in
theorem dadd_congr : dadd q r d = dadd q' r' d' := by
  obtain ⟨hqx, hqz⟩ := hq
  obtain ⟨hrx, hrz⟩ := hr
  obtain ⟨hdx, hdz⟩ := hd
  refine Point.eq_of_cast_eq (dadd_reduced _ _ _) (dadd_reduced _ _ _) ?_ ?_
  · rw [cast_dadd_x, cast_dadd_x, hqx, hqz, hrx, hrz, hdz]
  · rw [cast_dadd_z, cast_dadd_z, hqx, hqz, hrx, hrz, hdx]

include hq hr hd in
theorem ladderStep_congr (b : Bool) : ladderStep b d ⟨q, r⟩ = ladderStep b d' ⟨q', r'⟩ := by
  cases b with
  | false => rw [ladderStep_false, ladderStep_false, dbl_congr hq, dadd_congr hq hr hd]
  | true => rw [ladderStep_true, ladderStep_true, dbl_congr hr, dadd_congr hq hr hd]

include hd in
theorem ladderBits_congr (k n : Nat) (qr : Accumulators) : ladderBits k d n qr = ladderBits k d' n qr := by
  induction n generalizing qr with
  | zero => rfl
  | succ n ih =>
    have hstep := ladderStep_congr (.refl qr.q) (.refl qr.r) hd (k.testBit n)
    rw [ladderBits_succ, ladderBits_succ, hstep, ih]

include hd in
/-- The first iteration already reduces what it takes from the point. -/
theorem scalarMul_congr (k : Nat) : scalarMul k d = scalarMul k d' := by
  have hstep := ladderStep_congr (.refl neutral) hd hd (k.testBit 255)
  rw [scalarMul, scalarMul, ladderBits_succ k d 255, ladderBits_succ k d' 255, hstep, ladderBits_congr hd]

end congr

/-- Settles O25: the three ranges of a 32-byte integer, the round trip, and the ladder's congruence modulo p. -/
theorem bytesToFieldAndBack : Obligations.BytesToFieldAndBack := by
  refine ⟨fun b hb => ?_, fun x hx => ?_, fun k u => scalarMul_congr (.mod_prime u 1) k⟩
  · exact ⟨rfl, bytesToField_lt b, Nat.mod_eq_of_lt, bytesToField_of_lt_two_mul, bytesToField_of_two_mul_le hb,
      fieldToBytes_bytesToField_ne⟩
  · have hx255 : x < 2 ^ 255 := hx.trans prime_lt_two_pow
    exact ⟨fieldToBytes_length x, leToNat_fieldToBytes hx255, Nat.testBit_lt_two_pow hx255,
      bytesToField_fieldToBytes hx⟩

/-! ### The conversion to affine form (44_codec.md R227) -/

theorem toCompressed_of_z_zero {q : Point} (hz : q.z = 0) : toCompressed q = none := if_pos hz

theorem toCompressed_of_z_ne_zero {q : Point} (hz : q.z ≠ 0) : toCompressed q = some (fmul q.x (finv q.z)) :=
  if_neg hz

/-- NONE is the value 0. -/
theorem compressedValue_of_z_zero {q : Point} (hz : q.z = 0) : compressedValue q = 0 := by
  rw [compressedValue, toCompressed_of_z_zero hz, Option.getD_none]

theorem compressedValue_of_z_ne_zero {q : Point} (hz : q.z ≠ 0) :
    compressedValue q = q.x * (q.z ^ (prime - 2) % prime) % prime := by
  rw [compressedValue, toCompressed_of_z_ne_zero hz, Option.getD_some, fmul, finv_eq]

/-- Multiplying by Z undoes the multiplication by its inverse. -/
theorem fmul_finv_mul_mod {x z : Nat} (h0 : 0 < z) (hz : z < prime) : fmul x (finv z) * z % prime = x % prime := by
  rw [fmul, Nat.mod_mul_mod, Nat.mul_assoc, ← Nat.mul_mod_mod, finv_mul_mod h0 hz, Nat.mul_one]

/-- Settles O26, by Z: the quotient is X times the inverse of Z. -/
theorem toCompressedDividesXByZ : Obligations.ToCompressedDividesXByZ := by
  refine fun q hx hz => ⟨toCompressed_of_z_zero, fun hne => ⟨_, toCompressed_of_z_ne_zero hne, fmul_lt _ _, ?_⟩⟩
  rw [fmul_finv_mul_mod (Nat.pos_of_ne_zero hne) hz, Nat.mod_eq_of_lt hx]

/-! ### The words of a command with one point operand (30_encoding.md R113, R117) -/

section packR

variable {op : BitVec 6} {d a b c p u v w : BitVec 4} {rsv : BitVec 10} {i : Instr}

/-- A command of one point operand `p` and one operand of another kind. -/
theorem encodedBy_onePointOfTwo
    (h : decode (packR op d a b c rsv) = checkR (packR op d a b c rsv) [u, v] [p] i) :
    EncodedBy (packR op d a b c rsv) i (p < 8 ∧ u = 0 ∧ v = 0 ∧ rsv = 0) :=
  encodedBy_of_checkR h (by simp [pregOk_iff_lt_eight, and_assoc, and_comm, and_left_comm])

/-- A command whose one operand is the point `p`. -/
theorem encodedBy_onePoint
    (h : decode (packR op d a b c rsv) = checkR (packR op d a b c rsv) [u, v, w] [p] i) :
    EncodedBy (packR op d a b c rsv) i (p < 8 ∧ u = 0 ∧ v = 0 ∧ w = 0 ∧ rsv = 0) :=
  encodedBy_of_checkR h (by simp [pregOk_iff_lt_eight, and_assoc, and_comm, and_left_comm])

end packR

/-! ### The commands -/

/-- Settles O27: the value written is `bytesToField`, the slot's integer reduced. -/
theorem ldfLoadsTheReducedValue : Obligations.LdfLoadsTheReducedValue := fun d a s =>
  ⟨fun b c rsv => encodedBy_twoFields (by simp [decode]),
    exists_writesField_reduced (exec_ldf s d a) (bytesToField_lt _)⟩

/-- Settles O28: the bytes stored are read back, and a register's 255 bits are their integer, reduced or not. -/
theorem stfStoresTheFieldElement : Obligations.StfStoresTheFieldElement := by
  intro d a s hs
  refine ⟨fun b c rsv => encodedBy_twoFields (by simp [decode]), _, exec_stf s d a,
    writesSlot_finish hs d (fieldToBytes_length _), ?_⟩
  rw [finish_readSlot, readSlot_writeSlot_same hs _ (fieldToBytes_length _), leToNat_fieldToBytes (readF_lt s _),
    srcF_eq]

theorem exists_writesPoint {i : Instr} {s : State} {r : PReg} {q : Point}
    (h : exec i s = complete (s.writeP (pIndex r) q)) (hx : q.x < 2 ^ 255) (hz : q.z < 2 ^ 255) :
    ∃ t, exec i s = .next t ∧ WritesPoint r q s t :=
  ⟨_, h, writesPoint_finish s r hx hz⟩

/-- Settles O29: the coordinates written are a register's 255 bits, 1 and 0, which fit whole. -/
theorem pprojAndPinfWriteProjectivePoints : Obligations.PprojAndPinfWriteProjectivePoints := by
  intro d a s
  have h1 : 1 < 2 ^ 255 := by decide
  have h0 : 0 < 2 ^ 255 := by decide
  exact ⟨⟨fun b c rsv => encodedBy_onePointOfTwo (by simp [decode]),
      exists_writesPoint (exec_pproj s d a) (readF_lt s _) h1⟩,
    fun a' b c rsv => encodedBy_onePoint (by simp [decode]), exists_writesPoint (exec_pinf s d) h1 h0⟩

/-- Settles O30: the write of F[d] is `writesField_finish`'s, and INF is set from Z beside it. -/
theorem pcompWritesTheAffineX : Obligations.PcompWritesTheAffineX := by
  intro d a s
  have hlt : compressedValue (s.srcP a) < 2 ^ 255 := (compressedValue_lt _).trans prime_lt_two_pow
  obtain ⟨hcompleted, hvalue, hother, hsk, hmem, -, hzero⟩ := writesField_finish s d hlt
  refine ⟨fun b c rsv => encodedBy_onePointOfTwo (by simp [decode]), _, exec_pcomp s d a, { hcompleted with },
    fun hz => ⟨?_, ?_⟩, fun hz => ⟨?_, ?_⟩, hother, hsk, hmem, hzero⟩
  · exact hvalue.trans (compressedValue_of_z_zero hz)
  · exact decide_eq_true hz
  · exact decide_eq_false hz
  · exact hvalue.trans (compressedValue_of_z_ne_zero hz)

end Sys2Proof.Machine
end

section
/-! The key-agreement commands (45_keyagreement.md): what one leaves behind, then X25519 against its sequence of
primitive commands, then the base point. -/

namespace Sys2Proof.Machine

open Sys2Proof.Claims

/-- A command's effect, finished, is a completion without error (10_state.md R53). -/
theorem completed_finish {s u : State} (h : CommandEffect s u) : Completed s u.finish :=
  ⟨rfl, rfl, h.ieDone, h.ieErr, h.err, h.errcode, h.errcmd, h.drop, h.run⟩

/-! ### The key-agreement output (45_keyagreement.md R252, R255) -/

theorem fieldToBytes_zero : fieldToBytes 0 = List.replicate 32 0 := by decide

theorem all_beq_zero_iff {b : List Byte} (hb : b.length = 32) :
    b.all (· == 0) = true ↔ b = List.replicate 32 0 := by
  rw [List.eq_replicate_iff]
  simp [hb]

@[simp] theorem agree_readSk (s : State) (d : Slot) (q : Point) : (s.agree d q).readSk = s.readSk := by
  simp [State.agree]

section agree

variable {s : State} (hs : Memory.wf s.mem = true) (d : Slot) (q : Point)
include hs

theorem readSlot_agree_same : (s.agree d q).readSlot (sIndex d) = fieldToBytes (compressedValue q) := by
  simp [State.agree, readSlot_writeSlot_same hs]

/-- The bytes are those of a field element, so they are read back whole and their bit 255 is 0. -/
theorem writesAgreement_finish : WritesAgreement d q s (s.agree d q).finish := by
  have hslot := readSlot_agree_same hs d q
  have hlt : compressedValue q < 2 ^ 255 := (compressedValue_lt q).trans prime_lt_two_pow
  unfold WritesAgreement
  rw [finish_readSlot, hslot]
  refine ⟨completed_finish (commandEffect_agree s d q), fun hz => ⟨?_, ?_⟩, fun hz => ⟨?_, ?_⟩, ?_,
    ⟨compressedValue q, compressedValue_lt q, Nat.testBit_lt_two_pow hlt, rfl, leToNat_fieldToBytes hlt⟩,
    fun a ha => ?_, fun j => ?_, ?_⟩
  · rw [compressedValue_of_z_zero hz, fieldToBytes_zero]
  · simp [hz]
  · rw [compressedValue_of_z_ne_zero hz, fieldToBytes]
  · simp [hz]
  · rw [finish_zero, agree_zero, all_beq_zero_iff (fieldToBytes_length _)]
  · rw [finish_mem, agree_mem, read_writeSlot_outside hs _ (fieldToBytes_length _) ha]
  · rw [finish_readF, agree_readF]
  · rw [finish_sk, agree_sk]

theorem exists_writesAgreement {i : Instr} (h : exec i s = complete (s.agree d q)) :
    ∃ t, exec i s = .next t ∧ WritesAgreement d q s t :=
  ⟨_, h, writesAgreement_finish hs d q⟩

end agree

/-- Settles O31: both commands are `State.agree` of a ladder's result. -/
theorem keyAgreementWritesSlotInfAndZero : Obligations.KeyAgreementWritesSlotInfAndZero := fun d a b s hs =>
  ⟨⟨fun c rsv => encodedBy_threeFields (by simp [decode]), exists_writesAgreement hs d _ (exec_x25519 s d a b)⟩,
    fun b' c rsv => encodedBy_twoFields (by simp [decode]), exists_writesAgreement hs d _ (exec_x25519b s d a)⟩

/-! ### The sequence of primitive commands (45_keyagreement.md R253) -/

theorem execAll_cons_complete {i : Instr} {is : List Instr} {s u : State} (h : exec i s = complete u) :
    execAll (i :: is) s = execAll is u.finish := by
  simp [execAll, h]

theorem clamp_readSlot_lt (s : State) (i : Fin 16) : clamp (s.readSlot i) < 2 ^ 256 :=
  (clamp_lt (readSlot_length s i)).trans (by decide)

section load

variable (s : State) (k x : Nat)

/-- After CLAMPK; LDF f0; PPROJ p1, f0: SK holds `k`, F0 holds `x`, and P1 is the point of x-coordinate `x`. -/
def State.loadAgreement : State :=
  (((s.writeSk k).finish.writeF (fIndex 0) x).finish.writeP (pIndex 1) (toProjective x)).finish

@[simp] theorem loadAgreement_zero : (s.loadAgreement k x).zero = s.zero := rfl

theorem loadAgreement_readSk {k : Nat} (hk : k < 2 ^ 256) : (s.loadAgreement k x).readSk = k := by
  simp [State.loadAgreement, readSk_writeSk _ hk]

theorem loadAgreement_readP {x : Nat} (hx : x < prime) :
    (s.loadAgreement k x).readP (pIndex 1) = toProjective x := by
  have hpt : (toProjective x).Reduced := ⟨hx, show 1 < prime by decide⟩
  simp [State.loadAgreement, readP_writeP_same _ _ hpt]

theorem loadAgreement_readF {j : Fin 16} (hj : j ∉ [0, 2, 3, 4, 5]) : (s.loadAgreement k x).readF j = s.readF j := by
  simp only [List.mem_cons, not_or] at hj
  obtain ⟨h0 : j ≠ fIndex 0, hx : j ≠ pointX (pIndex 1), hz : j ≠ pointZ (pIndex 1), -⟩ := hj
  rw [State.loadAgreement, finish_readF, readF_writeP_ne _ _ hx hz, finish_readF, readF_writeF_ne _ _ h0, finish_readF,
    writeSk_readF]

theorem execAll_load (a b : Slot) (is : List Instr) :
    execAll (.clampk a :: .ldf 0 b :: .pproj 1 0 :: is) s =
      execAll is (s.loadAgreement (clamp (s.readSlot (sIndex a))) (bytesToField (s.readSlot (sIndex b)))) := by
  rw [execAll_cons_complete (exec_clampk s a), execAll_cons_complete (exec_ldf _ 0 b),
    execAll_cons_complete (exec_pproj _ 1 0), finish_readF, readF_writeF_same _ _ (bytesToField_lt _), finish_readSlot,
    writeSk_readSlot, State.loadAgreement]

end load

section store

variable (s : State) (d : Slot) (q : Point)

/-- After LADDER p2, p1; PCOMP f0, p2; STF sd, f0: P2 holds the ladder's result `q`, F0 and slot `d` its compressed
value. -/
def State.storeAgreement : State :=
  ((((s.writeP (pIndex 2) q).finish.writeF (fIndex 0) (compressedValue q)).setInf q).finish.writeSlot (sIndex d)
    (fieldToBytes (compressedValue q))).finish

@[simp] theorem storeAgreement_inf : (s.storeAgreement d q).inf = decide (q.z = 0) := rfl
@[simp] theorem storeAgreement_zero : (s.storeAgreement d q).zero = s.zero := rfl
@[simp] theorem storeAgreement_readSk : (s.storeAgreement d q).readSk = s.readSk := rfl

theorem storeAgreement_readSlot (hs : Memory.wf s.mem = true) :
    (s.storeAgreement d q).readSlot (sIndex d) = fieldToBytes (compressedValue q) := by
  rw [State.storeAgreement, finish_readSlot, readSlot_writeSlot_same ?_ _ (fieldToBytes_length _)]
  exact hs

theorem storeAgreement_readF {j : Fin 16} (hj : j ∉ [0, 2, 3, 4, 5]) :
    (s.storeAgreement d q).readF j = s.readF j := by
  simp only [List.mem_cons, not_or] at hj
  obtain ⟨h0 : j ≠ fIndex 0, -, -, hx : j ≠ pointX (pIndex 2), hz : j ≠ pointZ (pIndex 2), -⟩ := hj
  rw [State.storeAgreement, finish_readF, writeSlot_readF, finish_readF, setInf_readF, readF_writeF_ne _ _ h0,
    finish_readF, readF_writeP_ne _ _ hx hz]

theorem execAll_store :
    execAll [.ladder 2 1, .pcomp 0 2, .stf d 0] s =
      .next (s.storeAgreement d (scalarMul s.readSk (s.readP (pIndex 1)))) := by
  have hq := scalarMul_reduced s.readSk (s.readP (pIndex 1))
  rw [execAll_cons_complete (exec_ladder s 2 1), execAll_cons_complete (exec_pcomp _ 0 2),
    execAll_cons_complete (exec_stf _ d 0), finish_readP, readP_writeP_same _ _ hq, finish_readF, setInf_readF,
    readF_writeF_same _ _ (compressedValue_lt _), execAll, State.storeAgreement]

end store

theorem execAll_primitiveSequence (s : State) (d a b : Slot) :
    execAll [.clampk a, .ldf 0 b, .pproj 1 0, .ladder 2 1, .pcomp 0 2, .stf d 0] s =
      .next ((s.loadAgreement (clamp (s.readSlot (sIndex a))) (bytesToField (s.readSlot (sIndex b)))).storeAgreement d
        (scalarMul (clamp (s.readSlot (sIndex a))) (toProjective (bytesToField (s.readSlot (sIndex b)))))) := by
  rw [execAll_load, execAll_store, loadAgreement_readSk _ _ (clamp_readSlot_lt s _),
    loadAgreement_readP _ _ (bytesToField_lt _)]

/-- Settles O32: both leave `scalarMul` of the same scalar and point, the sequence by way of SK and P1. -/
theorem x25519IsThePrimitiveSequence : Obligations.X25519IsThePrimitiveSequence := by
  intro d a b s hs
  refine ⟨_, _, exec_x25519 s d a b, execAll_primitiveSequence s d a b, ?_, ?_, ?_, ?_, ?_, fun j => ?_, fun j hj => ?_⟩
  · rw [storeAgreement_readSlot (s.loadAgreement _ _) _ _ hs, finish_readSlot, readSlot_agree_same hs]
  · rw [storeAgreement_inf, finish_inf, agree_inf]
  · rw [storeAgreement_zero, loadAgreement_zero]
  · rw [storeAgreement_readSk, loadAgreement_readSk _ _ (clamp_readSlot_lt s _), srcS_eq]
  · rw [finish_readSk, agree_readSk]
  · rw [finish_readF, agree_readF]
  · rw [storeAgreement_readF _ _ _ hj, loadAgreement_readF _ _ _ hj]

/-! ### The base point (45_keyagreement.md R251) -/

/-- Settles O33: 9 is the base point's x-coordinate, and only the residue of the peer's value is used. -/
theorem x25519bIsX25519OnTheBasePoint : Obligations.X25519bIsX25519OnTheBasePoint := by
  intro d a b s h
  have hbase : bytesToField (s.readSlot (sIndex b)) = baseX := h
  rw [exec_x25519, exec_x25519b, hbase]

end Sys2Proof.Machine
end

section
/-! Errors and the interrupt (60_exceptions.md): the error entry, the three ends of a completion step, the fail-stop
rule, and the level of irq. -/

namespace Sys2Proof.Machine

open Sys2Proof.Claims

/-! ### The error entry (60_exceptions.md R275) -/

theorem exists_errorRecorded (e : ErrorCause) (w : Word) (s : State) :
    ∃ t, raise e w s = .next t ∧ ErrorRecorded (errorCode e) w s t :=
  ⟨_, rfl, errorRecorded_finish e w s⟩

/-- Settles O36: the two error causes have the codes 1 and 2. -/
theorem errorEntryRecordsAndNothingElse : Obligations.ErrorEntryRecordsAndNothingElse := fun w s =>
  ⟨exists_errorRecorded .illegal w s, exists_errorRecorded .invZero w s⟩

/-! ### The ends of a completion step (60_exceptions.md R271, R272, R274) -/

/-- FINV of 0 is the one command that raises; `exec_cases` does not say that it always does. -/
theorem exec_ends (i : Instr) (s : State) :
    (InvertsZero i s ∧ exec i s = raise .invZero s.pendingWord s) ∨
    (¬InvertsZero i s ∧ ∃ u, CommandEffect s u ∧ exec i s = complete u) := by
  by_cases hz : InvertsZero i s
  · refine .inl ⟨hz, ?_⟩
    obtain ⟨d, a, rfl, h0⟩ := hz
    exact if_pos h0
  · obtain heffect | ⟨d, a, hi, h0, -⟩ := exec_cases i s
    · exact .inr ⟨hz, heffect⟩
    · exact absurd ⟨d, a, hi, h0⟩ hz

/-- The same, in the terms of the claims. -/
theorem exec_answers (i : Instr) (s : State) :
    ∃ t, exec i s = .next t ∧
      (InvertsZero i s → ErrorRecorded 2 s.pendingWord s t) ∧ (¬InvertsZero i s → Completed s t) := by
  obtain ⟨hz, hraise⟩ | ⟨hz, u, hu, hcomplete⟩ := exec_ends i s
  · exact ⟨_, hraise, fun _ => errorRecorded_finish .invZero _ s, (absurd hz ·)⟩
  · exact ⟨_, hcomplete, (absurd · hz), fun _ => completed_finish hu⟩

/-- Settles O34: the decoder decides between E_ILLEGAL and the command, and the command has two ends. -/
theorem completionStepEndsInOneOfThreeWays : Obligations.CompletionStepEndsInOneOfThreeWays := by
  intro s w hw
  obtain ⟨⟨r, hr⟩, hraise⟩ | ⟨i, hi, hexec⟩ := completionStep_cases hw
  · refine ⟨_, hraise, fun _ => errorRecorded_finish .illegal w s, fun i hi => ?_⟩
    rw [hr] at hi
    cases hi
  · obtain ⟨t, ht, hends⟩ := exec_answers i s
    rw [pendingWord_eq hw] at hends
    refine ⟨t, hexec.trans ht, fun h => absurd hi (h i), fun j hj => ?_⟩
    rw [hi] at hj
    cases hj
    exact ⟨hexec, hends⟩

/-! ### Nothing becomes pending while ERR = 1 (60_exceptions.md R276, R277) -/

section failStop

variable {s t : State} (hp : s.pending = none) (he : s.err = true)
include hp he

theorem hostWriteEffect_failStop {off : Offset} {v : Word} (h : HostWriteEffect s off v t) : t.pending = none := by
  cases h with
  | softReset ho hv => rfl
  | cmdAccepted ho hidle hnone => exact absurd (he.symm.trans hnone) (by decide)
  | _ => exact hp

theorem hostStepEffect_failStop (h : HostStepEffect s t) : t.pending = none := by
  have hread (off : Offset) : (s.hostRead off).pending = none := by
    rw [eq_of_block_eq (hostRead_block s off)]
    exact hp
  cases h with
  | poll off => exact hread off
  | read off => exact hread off
  | write off v =>
    have hwrite : (s.hostWrite off v).pending = none := hostWriteEffect_failStop hp he (hostWrite_effect s off v)
    exact hwrite
  | _ => exact hp

end failStop

/-- Settles O38, agent by agent: the invariant gives PENDING = NONE, so the engine cannot move and only an accept could
change it. -/
theorem noCommandIsAcceptedWhileErr : Obligations.NoCommandIsAcceptedWhileErr := by
  intro s t hs he h
  have hp : s.pending = none := hs.failStop he
  obtain ⟨-, ⟨-, rfl⟩ | ⟨-, rfl⟩ | ⟨-, rfl⟩ | ⟨hagent, -⟩⟩ := step_next_cases h
  · exact hp
  · rfl
  · exact hostStepEffect_failStop (s := s.popSchedule) hp he (hostStep_effect _)
  · exact absurd hp (busy_eq_true_iff.1 (busy_of_nextAgent_engine hagent))

/-! ### The level of irq (60_exceptions.md R280, 70_reset_and_hazards.md R314) -/

section irq

variable {s : State}

theorem irq_eq_true_iff : s.irq = true ↔ (s.done = true ∧ s.ieDone = true) ∨ (s.err = true ∧ s.ieErr = true) := by
  simp [State.irq]

theorem irq_eq_false_of_sources (hd : s.done = false) (he : s.err = false) : s.irq = false := by
  simp [State.irq, hd, he]

theorem irq_eq_false_of_enables (hd : s.ieDone = false) (he : s.ieErr = false) : s.irq = false := by
  simp [State.irq, hd, he]

theorem resetBlock_irq (s : State) : s.resetBlock.irq = false := irq_eq_false_of_sources rfl rfl

/-- A STATUS write clears the sources it names; ERR may be 0 already. -/
theorem writeStatus_irq {v : Word} (hd : v.getLsbD 1 = true) (he : s.err = false ∨ v.getLsbD 2 = true) :
    (s.writeStatus v).irq = false := by
  refine irq_eq_false_of_sources ?_ ?_
  · simp [writeStatus_eq, hd]
  · obtain he | he := he <;> simp [writeStatus_eq, he]

/-- Every command ends with DONE = 1 and the enables as before, whichever its end. -/
theorem exec_irq {i : Instr} {t : State} (h : exec i s = .next t) (hie : s.ieDone = true) : t.irq = true := by
  obtain ⟨t', ht', herror, hcomplete⟩ := exec_answers i s
  rw [h] at ht'
  cases ht'
  obtain ⟨hdone, henable⟩ : t.done = true ∧ t.ieDone = s.ieDone := by
    by_cases hz : InvertsZero i s
    · exact ⟨(herror hz).done, (herror hz).ieDone⟩
    · exact ⟨(hcomplete hz).done, (hcomplete hz).ieDone⟩
  exact irq_eq_true_iff.2 (.inl ⟨hdone, henable.trans hie⟩)

/-- The error entry sets both sources. -/
theorem raise_irq {e : ErrorCause} {w : Word} {t : State} (h : raise e w s = .next t)
    (hie : s.ieDone = true ∨ s.ieErr = true) : t.irq = true := by
  obtain rfl := raise_next h
  exact irq_eq_true_iff.2 (hie.imp (⟨rfl, ·⟩) (⟨rfl, ·⟩))

end irq

/-- Settles O39: the level, the two ends that raise a source, and what clears a source or an enable. -/
theorem interruptFollowsTheEnabledSources : Obligations.InterruptFollowsTheEnabledSources := by
  refine fun s => ⟨irq_eq_true_iff, fun i t => exec_irq, fun e w t => raise_irq, fun he => ?_, ?_, ?_, ?_,
    resetBlock_irq s⟩
  · exact writeStatus_irq (by decide) (.inl he)
  · exact writeStatus_irq (by decide) (.inr (by decide))
  · rw [hostWrite_ctrl, writeCtrl_enables (by decide)]
    exact irq_eq_false_of_enables rfl rfl
  · rw [hostWrite_ctrl, writeCtrl_softReset (by decide)]
    exact resetBlock_irq s

end Sys2Proof.Machine
end

section
/-! Reset and hazards (70_reset_and_hazards.md): the hardware reset as a step, the run's records, which no step clears,
and the end of every run. -/

namespace Sys2Proof.Machine

/-! ### The hardware reset (R310) -/

/-- Settles O52: a reset can always move, so the schedule's entry decides. -/
theorem hardwareResetStep : Obligations.HardwareResetStep := by
  intro s rest hrun hschedule
  have hagent : s.nextAgent = some .reset := by rw [State.nextAgent, hschedule]
  refine ⟨_, step_reset hrun hagent, resetBlock_block _, ?_⟩
  rw [resetBlock_run, State.popSchedule, hschedule, List.tail_cons]

/-! ### What each kind of step does to the run -/

section hostRead

variable (s : State) (off : Offset)

@[simp] theorem hostRead_run_refused : (s.hostRead off).run.refused = s.run.refused := by
  obtain ⟨-, h⟩ | ⟨-, h⟩ := hostRead_cases s off <;> simp [h]

@[simp] theorem hostRead_run_schedule : (s.hostRead off).run.schedule = s.run.schedule := by
  obtain ⟨-, h⟩ | ⟨-, h⟩ := hostRead_cases s off <;> simp [h]

@[simp] theorem hostRead_busy : (s.hostRead off).busy = s.busy := by
  obtain ⟨-, h⟩ | ⟨-, h⟩ := hostRead_cases s off <;> simp [h]

end hostRead

/-- Of the run a host write changes dropSeen at most, and only to set it. -/
theorem hostWriteEffect_run {s t : State} {off : Offset} {v : Word} (h : HostWriteEffect s off v t) :
    t.run = s.run ∨ t.run = s.dropWrite.run := by
  cases h with
  | cmdDropped | ramDropped => exact .inr rfl
  | _ => exact .inl rfl

@[simp] theorem hostWrite_run_program (s : State) (off : Offset) (v : Word) :
    (s.hostWrite off v).run.program = s.run.program := by
  obtain h | h := hostWriteEffect_run (hostWrite_effect s off v) <;> simp [h]

@[simp] theorem hostWrite_run_schedule (s : State) (off : Offset) (v : Word) :
    (s.hostWrite off v).run.schedule = s.run.schedule := by
  obtain h | h := hostWriteEffect_run (hostWrite_effect s off v) <;> simp [h]

theorem hostStepEffect_run_schedule {s t : State} (h : HostStepEffect s t) : t.run.schedule = s.run.schedule := by
  cases h with
  | stay | elsewhere | refused => rfl
  | _ => simp

/-- A completion step leaves nothing pending, and of the run it changes errSeen at most, and only to set it. -/
theorem completionStep_next {s : State} (hb : s.busy = true) :
    ∃ t, completionStep s = .next t ∧ t.pending = none ∧ (t.run = s.run ∨ t.run = { s.run with errSeen := true }) := by
  obtain ⟨w, hw⟩ := Option.isSome_iff_exists.1 hb
  obtain ⟨-, hraise⟩ | ⟨i, -, hexec⟩ := completionStep_cases hw
  · exact ⟨_, hraise, rfl, .inr rfl⟩
  · obtain ⟨u, hu, hcomplete⟩ | ⟨d, a, -, -, hraise⟩ := exec_cases i s
    · exact ⟨_, hexec.trans hcomplete, rfl, .inl hu.run⟩
    · exact ⟨_, hexec.trans hraise, rfl, .inr rfl⟩

/-! ### No record of the run is cleared (R336) -/

/-- The run `r'` has the records of `r`, and perhaps more. -/
structure Run.KeepsRecords (r r' : Run) : Prop where
  refused : r.refused = true → r'.refused = true
  errSeen : r.errSeen = true → r'.errSeen = true
  dropSeen : r.dropSeen = true → r'.dropSeen = true
  reads : r.reads <+: r'.reads

theorem Run.KeepsRecords.refl (r : Run) : r.KeepsRecords r := ⟨id, id, id, [], List.append_nil _⟩

theorem hostRead_keepsRecords (s : State) (off : Offset) : s.run.KeepsRecords (s.hostRead off).run where
  refused := by simp
  errSeen := by simp
  dropSeen := by simp
  reads := by simp

theorem hostWrite_keepsRecords (s : State) (off : Offset) (v : Word) : s.run.KeepsRecords (s.hostWrite off v).run := by
  obtain h | h := hostWriteEffect_run (hostWrite_effect s off v)
  · rw [h]
    exact .refl _
  · rw [h]
    exact { Run.KeepsRecords.refl s.run with dropSeen := fun _ => rfl }

/-- Removing an operation from the program is no change of a record. -/
theorem popProgram_keepsRecords {r : Run} {s : State} (h : r.KeepsRecords s.run) : r.KeepsRecords s.popProgram.run :=
  ⟨h.refused, h.errSeen, h.dropSeen, h.reads⟩

theorem hostStepEffect_keepsRecords {s t : State} (h : HostStepEffect s t) : s.run.KeepsRecords t.run := by
  cases h with
  | stay => exact .refl _
  | poll off => exact hostRead_keepsRecords s off
  | read off => exact popProgram_keepsRecords (hostRead_keepsRecords s off)
  | write off v => exact popProgram_keepsRecords (hostWrite_keepsRecords s off v)
  | elsewhere => exact popProgram_keepsRecords (.refl _)
  | refused => exact { Run.KeepsRecords.refl s.run with refused := fun _ => rfl }

theorem completionStep_keepsRecords {s t : State} (hb : s.busy = true) (h : completionStep s = .next t) :
    s.run.KeepsRecords t.run := by
  obtain ⟨t', ht', -, hrun⟩ := completionStep_next hb
  rw [h] at ht'
  cases ht'
  obtain hrun | hrun := hrun
  · rw [hrun]
    exact .refl _
  · rw [hrun]
    exact { Run.KeepsRecords.refl s.run with errSeen := fun _ => rfl }

/-- Settles O58, agent by agent; the schedule, which every step consumes, is no record. -/
theorem runRecordsAreNeverCleared : Obligations.RunRecordsAreNeverCleared := by
  intro s t h
  suffices hkeeps : s.popSchedule.run.KeepsRecords t.run from
    ⟨hkeeps.refused, hkeeps.errSeen, hkeeps.dropSeen, hkeeps.reads⟩
  obtain ⟨-, ⟨-, rfl⟩ | ⟨-, rfl⟩ | ⟨-, rfl⟩ | ⟨hagent, hstep⟩⟩ := step_next_cases h
  · exact .refl _
  · exact .refl _
  · exact hostStepEffect_keepsRecords (hostStep_effect _)
  · have hb : s.busy = true := busy_of_nextAgent_engine hagent
    exact completionStep_keepsRecords (s := s.popSchedule) hb hstep

/-! ### Who can move -/

/-- Who may be the agent that moves next, each with what lets it move; nobody only at the end of the run (R330, R335). -/
inductive CanMove (s : State) : Option Agent → Prop
  | nobody (h : s.Ended) : CanMove s none
  | reset (hs : s.run.schedule ≠ []) : CanMove s (some .reset)
  | host (hp : s.run.program ≠ []) (hs : s.run.schedule ≠ [] ∨ s.busy = false) : CanMove s (some .host)
  | engine (hb : s.busy = true) : CanMove s (some .engine)

theorem defaultAgent_canMove (s : State) : CanMove s s.defaultAgent := by
  unfold State.defaultAgent
  cases hb : s.busy with
  | true => exact .engine hb
  | false =>
    cases hp : s.run.program with
    | nil => exact .nobody ⟨hp, busy_eq_false_iff.1 hb⟩
    | cons op ops => exact .host (by simp [hp]) (.inr hb)

/-- An entry of the schedule whose agent cannot move leaves the move to the default. -/
theorem nextAgent_canMove (s : State) : CanMove s s.nextAgent := by
  unfold State.nextAgent
  split
  case h_1 hs => exact .reset (by simp [hs])
  case h_2 hs =>
    split
    · exact defaultAgent_canMove s
    · next hp => exact .host (by simpa using hp) (.inl (by simp [hs]))
  case h_3 hs =>
    split
    · next hb => exact .engine hb
    · exact defaultAgent_canMove s
  case h_4 hs => exact defaultAgent_canMove s

/-! ### The steps that remain (R335) -/

/-- A bound on the steps to the end of the run: an operation counts twice, as it may leave a command pending. -/
def State.remaining (s : State) : Nat := s.run.schedule.length + 2 * s.run.program.length + s.busy.toNat

section remaining

variable {s : State}

theorem remaining_pos (h : ¬s.Ended) : 0 < s.remaining := by
  by_contra h0
  obtain ⟨⟨-, hprogram⟩, hbusy⟩ : (s.run.schedule = [] ∧ s.run.program = []) ∧ s.busy = false := by
    simpa [State.remaining] using h0
  exact h ⟨hprogram, busy_eq_false_iff.1 hbusy⟩

theorem two_le_remaining (hp : s.run.program ≠ []) : 2 ≤ s.remaining := by
  have := List.length_pos_of_ne_nil hp
  unfold State.remaining
  omega

theorem remaining_popSchedule_le (s : State) : s.popSchedule.remaining ≤ s.remaining := by
  simp [State.remaining]

theorem remaining_popSchedule_lt (hs : s.run.schedule ≠ []) : s.popSchedule.remaining < s.remaining := by
  have := List.length_pos_of_ne_nil hs
  simp only [State.remaining, popSchedule_run_schedule, popSchedule_run_program, popSchedule_busy, List.length_tail]
  omega

/-- A reset leaves the run as it is, and BUSY 0. -/
theorem remaining_resetBlock_le (s : State) : s.resetBlock.remaining ≤ s.remaining :=
  Nat.le_trans (Nat.le_add_right _ 0) (Nat.add_le_add_left (Nat.zero_le _) _)

/-- An operation that leaves the program pays for the command it may have issued. -/
theorem remaining_lt_of_program_eq_tail {t : State} (hp : s.run.program ≠ [])
    (hs : t.run.schedule = s.run.schedule) (ht : t.run.program = s.run.program.tail) : t.remaining < s.remaining := by
  have := List.length_pos_of_ne_nil hp
  have := t.busy.toNat_le
  simp only [State.remaining, hs, ht, List.length_tail]
  omega

theorem accessStep_progress (s : State) (off : Offset) (acc : Access) :
    (s.accessStep off acc).run.refused = true ∨ (s.accessStep off acc).run.program = s.run.program.tail := by
  cases hc : contractAccess off acc with
  | false => exact .inl (by rw [accessStep_refused s hc]; rfl)
  | true =>
    right
    rw [State.accessStep, if_pos hc]
    cases acc.kind <;> simp [State.contractStep]

/-- The next operation is refused or leaves the program, unless it is WAIT_IDLE polling a busy block. -/
theorem hostStep_progress (hp : s.run.program ≠ []) :
    s.hostStep.run.refused = true ∨ s.hostStep.run.program = s.run.program.tail ∨
    (s.busy = true ∧ s.hostStep = s.hostRead 0x008) := by
  obtain ⟨op, ops, hp⟩ := List.exists_cons_of_ne_nil hp
  have haccess (off : Offset) (acc : Access) (h : s.hostStep = s.accessStep off acc) :
      s.hostStep.run.refused = true ∨ s.hostStep.run.program = s.run.program.tail := by
    rw [h]
    exact accessStep_progress s off acc
  cases op with
  | access off acc => exact (haccess off acc (hostStep_access hp)).imp_right .inl
  | bus addr acc =>
    cases ho : windowOffset addr with
    | some off => exact (haccess off acc (hostStep_bus hp ho)).imp_right .inl
    | none => exact .inr (.inl (by simp only [State.hostStep, hp, ho, popProgram_run_program]))
  | waitIdle =>
    cases hb : s.busy with
    | true => exact .inr (.inr ⟨rfl, hostStep_waitIdle_busy hp hb⟩)
    | false => exact .inr (.inl (by simp [hostStep_waitIdle_idle hp hb]))

/-- A host operation brings the end nearer or is refused; a poll of a busy block leaves it where it is. -/
theorem remaining_hostStep (hp : s.run.program ≠ []) :
    s.hostStep.run.refused = true ∨ s.hostStep.remaining < s.remaining ∨
    (s.busy = true ∧ s.hostStep.remaining = s.remaining) := by
  obtain hrefused | htail | ⟨hb, hpoll⟩ := hostStep_progress hp
  · exact .inl hrefused
  · exact .inr (.inl (remaining_lt_of_program_eq_tail hp (hostStepEffect_run_schedule (hostStep_effect s)) htail))
  · exact .inr (.inr ⟨hb, by rw [hpoll]; simp [State.remaining]⟩)

theorem completionStep_remaining (hb : s.busy = true) :
    ∃ t, completionStep s = .next t ∧ t.remaining < s.remaining := by
  obtain ⟨t, ht, hpending, hrun⟩ := completionStep_next hb
  have hbusy : t.busy = false := busy_eq_false_iff.2 hpending
  refine ⟨t, ht, ?_⟩
  obtain hrun | hrun := hrun <;> simp [State.remaining, hrun, hbusy, hb]

/-- A step of a run that goes on brings its end nearer, or was an access outside the contract. -/
theorem step_progress (hrun : s.run.refused = false) (hend : ¬s.Ended) :
    ∃ t, step s = .next t ∧ (t.remaining < s.remaining ∨ t.run.refused = true ∧ 2 ≤ s.remaining) := by
  have hpop := remaining_popSchedule_le s
  have hmove := nextAgent_canMove s
  cases hagent : s.nextAgent with
  | none =>
    rw [hagent] at hmove
    cases hmove with
    | nobody h => exact absurd h hend
  | some a =>
    rw [hagent] at hmove
    cases hmove with
    | reset hs =>
      exact ⟨_, step_reset hrun hagent,
        .inl (Nat.lt_of_le_of_lt (remaining_resetBlock_le _) (remaining_popSchedule_lt hs))⟩
    | engine hb =>
      obtain ⟨t, ht, hlt⟩ := completionStep_remaining (s := s.popSchedule) hb
      exact ⟨t, (step_engine hrun hagent).trans ht, .inl (Nat.lt_of_lt_of_le hlt hpop)⟩
    | host hp hs =>
      refine ⟨_, step_host hrun hagent, ?_⟩
      obtain hrefused | hlt | ⟨hb, heq⟩ := remaining_hostStep (s := s.popSchedule) hp
      · exact .inr ⟨hrefused, two_le_remaining hp⟩
      · exact .inl (Nat.lt_of_lt_of_le hlt hpop)
      · have hschedule : s.run.schedule ≠ [] := hs.resolve_right fun hidle => Bool.false_ne_true (hidle.symm.trans hb)
        exact .inl (heq ▸ remaining_popSchedule_lt hschedule)

end remaining

/-! ### The end of a run (R335) -/

/-- Within `n` steps the run from `s` has ended or is refused. -/
def State.EndsWithin (n : Nat) (s : State) : Prop :=
  ∃ m ≤ n, (∃ t, core.run m s = .next t ∧ t.Ended) ∨ core.run m s = .refused .nonContractAccess

section EndsWithin

variable {n : Nat} {s t : State}

theorem endsWithin_of_ended (h : s.Ended) : s.EndsWithin n := ⟨0, Nat.zero_le n, .inl ⟨s, rfl, h⟩⟩

theorem endsWithin_of_refused (h : s.run.refused = true) (hn : 1 ≤ n) : s.EndsWithin n :=
  ⟨1, hn, .inr (run_succ_refused 0 (step_refused h))⟩

theorem endsWithin_succ_of_step (h : step s = .next t) (ht : t.EndsWithin n) : s.EndsWithin (n + 1) := by
  obtain ⟨m, hm, hends⟩ := ht
  refine ⟨m + 1, Nat.succ_le_succ hm, ?_⟩
  rwa [run_succ_next m h]

/-- The induction over the steps that remain; a refusal takes the step that finds it. -/
theorem endsWithin_of_remaining_le (h : s.remaining ≤ n) : s.EndsWithin n := by
  induction n generalizing s with
  | zero =>
    by_cases hend : s.Ended
    · exact endsWithin_of_ended hend
    · exact absurd (remaining_pos hend) (by omega)
  | succ n ih =>
    by_cases hend : s.Ended
    · exact endsWithin_of_ended hend
    cases hrun : s.run.refused with
    | true => exact endsWithin_of_refused hrun (by omega)
    | false =>
      obtain ⟨t, hstep, hprogress⟩ := step_progress hrun hend
      refine endsWithin_succ_of_step hstep ?_
      obtain hlt | ⟨hrefused, htwo⟩ := hprogress
      · exact ih (by omega)
      · exact endsWithin_of_refused hrefused (by omega)

end EndsWithin

/-- Settles O59: the bound is `State.remaining` with BUSY counted as 1. -/
theorem everyRunEnds : Obligations.EveryRunEnds := by
  intro s
  have hbusy : s.busy.toNat ≤ 1 := s.busy.toNat_le
  exact endsWithin_of_remaining_le (Nat.add_le_add_left hbusy _)

end Sys2Proof.Machine
end
